-- ==== Sys2Proof/Word.lean ====
section
/-!
DEFINITION. The words the block's rules speak of (spec/00_scope.md R8, R9): bytes, the 16-bit command word,
the host's durations and the opaque path. Bit 0 is the least significant bit.
-/

namespace Sys2Proof

/-- R9: every block value is an unsigned 8-bit byte unless its width is stated. -/
abbrev Byte := BitVec 8

/-- R60: a command is one 16-bit word. -/
abbrev Word := BitVec 16

/-- A duration (R8: `TIMEOUT`, `SETTLE_TIME`). An `Int`, so that the non-positive timeouts R120 refuses exist.
DESIGN CHOICE (notes/assumptions/6.md): counted in nanoseconds; the block only compares it with 0. -/
abbrev Duration := Int

/-- The host's opaque `PATH` argument of OPEN (R8, D27): the bytes the host gave, never interpreted. -/
abbrev Path := List Byte

end Sys2Proof
end

