-- ==== Sys2Proof/Config.lean ====
section
/-!
DEFINITION. What is fixed for the machine: the constants of R7, the defaults of R8's parameters, and the
environment's answers (R4, R41, R43), which no rule fixes and which are therefore free values.
-/

namespace Sys2Proof

/-- R24: the two legal values of `BAUD`. -/
inductive Baud where
  | b9600
  | b115200
deriving DecidableEq, Repr, Inhabited

/-- What is asked of the environment. Three transport calls give a result (R41), each with the transport settings it
runs under (R50: `BAUD` sets the frame timing of every `Tx` and `Rx`; R42: `TIMEOUT` bounds every `Rx`); `rx` also
names the byte sent just before it, whose echo is awaited (R43). `between` is no call of the block's: it asks what the
pending buffers hold when a command begins, whatever reached them since the last one (R20, R31, U5). -/
inductive Ask where
  | between
  | topen (path : Path)
  | tx (rate : Baud) (b : Byte)
  | rx (rate : Baud) (timeout : Option Duration) (sent : Byte)
deriving DecidableEq, Repr

/-- One answer of the environment (R31, R41 to R43).
`ok` is the result of `TOpen` or `Tx`. `arrived` is what reaches the pending input: within `TIMEOUT` for `Rx`
(none is a timeout; a second byte stays pending, R42), what an opened transport already holds for `TOpen`, or all it
holds for `between` (a late echo, line noise, a byte left over). `unsent` is the pending output the transport is left
with. The buffers are the environment's own (R20, R31). -/
structure Answer where
  ok : Bool
  arrived : List Byte
  unsent : List Byte
deriving DecidableEq, Repr, Inhabited

namespace Config

/-- R7: XOR mask of the bit-serial CRC step. -/
def crcPolyReflected : Byte := 0x8C
/-- R7: initial CRC register value. -/
def crcSeed : Byte := 0x00
/-- R7: UART byte sent for a 1 bit, a read or a release. -/
def slotOne : Byte := 0xFF
/-- R7: UART byte sent for a 0 bit. -/
def slotZero : Byte := 0x00
/-- R7: UART byte sent for the reset pulse. -/
def resetPulse : Byte := 0xF0
/-- R7: echo meaning no device. -/
def presenceNone : Byte := 0xF0
/-- R7: echo meaning short circuit. -/
def presenceShort : Byte := 0x00
/-- R7: least echo meaning a device is present. -/
def presenceLo : Byte := 0x10
/-- R7: greatest echo meaning a device is present. -/
def presenceHi : Byte := 0xE0
/-- R7: `BAUD_RESET`. -/
def baudReset : Baud := .b9600
/-- R7: `BAUD_BIT`. -/
def baudBit : Baud := .b115200
/-- R7: bits per byte transaction. -/
def bitsPerByte : Nat := 8

/-- One second in the unit of `Duration`. -/
def oneSecond : Duration := 1000000000
/-- R8: the default of the host's parameter `SETTLE_TIME`, 1 second. -/
def settleTimeDefault : Duration := oneSecond
/-- R8: the default of the parameter `OPEN_DRAIN_ECHO`. -/
def openDrainEchoDefault : Bool := false

/-- FREE VALUE (R43, U3, U4; notes/assumptions/1.md). The environment's answer number `k`, wherever
`State.env` holds none: any answer at all. It has no body, so nothing can be proved of it. -/
opaque freeAnswer : Nat → Ask → Answer

end Config

end Sys2Proof
end

