-- ==== Sys2Proof/Syntax.lean ====
section
/-!
DEFINITION. The commands (spec/30_encoding.md R62, spec/opcode_table.json): one constructor per row, and the
request by which the host presents one (R60).
-/

namespace Sys2Proof

/-- The block's commands, exactly those of R3 and R62. OPEN carries its two side arguments (R60, R65:
"OPEN is written `OPEN path, timeout`"); OW_WRITE_BIT's value is a single bit (R61). -/
inductive Instr where
  /-- OPEN path, timeout (R120). -/
  | openTransport (path : Path) (timeout : Duration)
  /-- CLOSE (R121). -/
  | closeTransport
  /-- OW_RESET (R123). -/
  | owReset
  /-- OW_WRITE_BIT v (R102). -/
  | owWriteBit (v : BitVec 1)
  /-- OW_READ_BIT (R103). -/
  | owReadBit
  /-- OW_WRITE_BYTE b (R104). -/
  | owWriteByte (b : Byte)
  /-- OW_READ_BYTE (R105). -/
  | owReadByte
  /-- OW_READ_BYTES n (R124). -/
  | owReadBytes (n : Byte)
  /-- CRC_INIT (R83). -/
  | crcInit
  /-- CRC_BYTE b (R84). -/
  | crcByte (b : Byte)
  /-- CRC_READ (R85). -/
  | crcRead
deriving DecidableEq, Repr

/-- What the host puts on the command interface (R60): one 16-bit word, and OPEN's side arguments, which a
word of another command ignores. -/
structure Request where
  word : Word
  path : Path
  timeout : Duration
deriving DecidableEq, Repr

end Sys2Proof
end

