-- ==== Sys2Proof/WellFormed.lean ====
section
/-!
DEFINITION. Well-formed commands. The operand ranges of R61 are in the types (one bit, one byte), so one check
is left: OPEN's timeout is a duration greater than zero (R8, R120). An OPEN that fails it still decodes and has
an outcome of its own, the refusal of R120, so nothing below assumes the check.
-/

namespace Sys2Proof

/-- R8, R120: the timeout given at OPEN is a positive duration; every other operand is legal by its type. -/
abbrev Instr.WellFormed : Instr → Prop
  | .openTransport _ timeout => 0 < timeout
  | .closeTransport => True
  | .owReset => True
  | .owWriteBit _ => True
  | .owReadBit => True
  | .owWriteByte _ => True
  | .owReadByte => True
  | .owReadBytes _ => True
  | .crcInit => True
  | .crcByte _ => True
  | .crcRead => True

/-- The same check as a Bool. -/
def Instr.wellFormed : Instr → Bool
  | .openTransport _ timeout => decide (0 < timeout)
  | .closeTransport => true
  | .owReset => true
  | .owWriteBit _ => true
  | .owReadBit => true
  | .owWriteByte _ => true
  | .owReadByte => true
  | .owReadBytes _ => true
  | .crcInit => true
  | .crcByte _ => true
  | .crcRead => true

end Sys2Proof
end

