-- ==== Sys2Proof/Decode.lean ====
section
/-!
DEFINITION. The decoder of command words (R60 to R63), total and rejecting by name, and the encoder written from
the same map (R62).
-/

namespace Sys2Proof

/-- Why a word is illegal: the three ways R63 lists. Each of them completes with ILLEGAL_COMMAND. -/
inductive Illegal where
  /-- `OPC` outside the map of R62. -/
  | unassignedOpcode
  /-- An OW_WRITE_BIT word with `OPD[7:1] != 0`. -/
  | writeBitOperand
  /-- A word of an operand-less command with `OPD != 0x00`. -/
  | operandNotZero
deriving DecidableEq, Repr

/-- R60: `OPC`, bits 15:8. -/
def opcField (w : Word) : Byte := w.extractLsb' 8 8

/-- R60: `OPD`, bits 7:0. -/
def opdField (w : Word) : Byte := w.extractLsb' 0 8

/-- R61: a command without an operand requires `OPD = 0x00`. -/
def operandless (opd : Byte) (i : Instr) : Except Illegal Instr :=
  if opd = 0x00 then .ok i else .error .operandNotZero

/-- R61: OW_WRITE_BIT takes `v = OPD[0]` and requires `OPD[7:1] = 0`. -/
def bitOperand (opd : Byte) : Except Illegal Instr :=
  if opd.extractLsb' 1 7 = 0 then .ok (.owWriteBit (opd.extractLsb' 0 1)) else .error .writeBitOperand

/-- R62, R63: every 16-bit word is one row of the command map or illegal. -/
def decode (r : Request) : Except Illegal Instr :=
  let opd := opdField r.word
  if opcField r.word = 0x01 then operandless opd (.openTransport r.path r.timeout)
  else if opcField r.word = 0x02 then operandless opd .closeTransport
  else if opcField r.word = 0x10 then operandless opd .owReset
  else if opcField r.word = 0x11 then bitOperand opd
  else if opcField r.word = 0x12 then operandless opd .owReadBit
  else if opcField r.word = 0x13 then .ok (.owWriteByte opd)
  else if opcField r.word = 0x14 then operandless opd .owReadByte
  else if opcField r.word = 0x15 then .ok (.owReadBytes opd)
  else if opcField r.word = 0x20 then operandless opd .crcInit
  else if opcField r.word = 0x21 then .ok (.crcByte opd)
  else if opcField r.word = 0x22 then operandless opd .crcRead
  else .error .unassignedOpcode

/-- R60: the word with the given `OPC` and `OPD`. -/
def commandWord (opc opd : Byte) : Word := (opc.setWidth 16 <<< 8) ||| opd.setWidth 16

/-- The `OPC` of each command (R62). -/
def Instr.opc : Instr → Byte
  | .openTransport _ _ => 0x01
  | .closeTransport => 0x02
  | .owReset => 0x10
  | .owWriteBit _ => 0x11
  | .owReadBit => 0x12
  | .owWriteByte _ => 0x13
  | .owReadByte => 0x14
  | .owReadBytes _ => 0x15
  | .crcInit => 0x20
  | .crcByte _ => 0x21
  | .crcRead => 0x22

/-- The `OPD` of each command (R61). -/
def Instr.opd : Instr → Byte
  | .openTransport _ _ => 0x00
  | .closeTransport => 0x00
  | .owReset => 0x00
  | .owWriteBit v => v.setWidth 8
  | .owReadBit => 0x00
  | .owWriteByte b => b
  | .owReadByte => 0x00
  | .owReadBytes n => n
  | .crcInit => 0x00
  | .crcByte b => b
  | .crcRead => 0x00

/-- The side arguments that go with a command's word. OPEN's are its own (R60); the others carry none, so any
will do (`decode` ignores them). -/
def Instr.sideArgs : Instr → Path × Duration
  | .openTransport path timeout => (path, timeout)
  | .closeTransport => ([], 0)
  | .owReset => ([], 0)
  | .owWriteBit _ => ([], 0)
  | .owReadBit => ([], 0)
  | .owWriteByte _ => ([], 0)
  | .owReadByte => ([], 0)
  | .owReadBytes _ => ([], 0)
  | .crcInit => ([], 0)
  | .crcByte _ => ([], 0)
  | .crcRead => ([], 0)

/-- The request that presents a command: its word (R62) and OPEN's side arguments. -/
def encode (i : Instr) : Request :=
  { word := commandWord i.opc i.opd, path := i.sideArgs.1, timeout := i.sideArgs.2 }

/-- The request for a table row's word. The table gives a word no side arguments, so OPEN gets an empty path and
1 second (notes/assumptions/10.md). Bits above `nbits` are zero. -/
def tableRequest (nbits w : Nat) : Request :=
  { word := BitVec.ofNat 16 (w % 2 ^ nbits), path := [], timeout := Config.oneSecond }

/-- The command the decoder reads from a table row's word. R47, R64: a command is one whole 16-bit word, so a
number that does not fit one is none. -/
def decodeTableWord (nbits w : Nat) : Option Instr :=
  if w % 2 ^ nbits < 2 ^ 16 then (decode (tableRequest nbits w)).toOption else none

end Sys2Proof
end

