-- ==== Sys2Proof/Machine/State.lean ====
section
/-!
DEFINITION. The block's state (spec/10_state.md R20), what a step can stop with, and the state after power-on
reset (R34). The block has no memory, no register file and no program counter (R21, R22, R40), so there is none
here. State is plain data.
-/

namespace Sys2Proof.Machine

/-- R26: the controller state. -/
inductive Ctrl where
  | closed
  | idle
  | busy
deriving DecidableEq, Repr

/-- R161: the status names. `crcError` is the host's alone; no block command produces it. -/
inductive Status where
  | ok
  | notConnected
  | ioError
  | noDevice
  | shortCircuit
  | presenceError
  | protocolError
  | crcError
  | illegalCommand
deriving DecidableEq, Repr

/-- The errors a block command can raise (R161), with the byte two of them report. -/
inductive BlockError where
  | notConnected
  | io
  | noDevice
  | shortCircuit
  | presence (p : Byte)
  | protocol (acc : Byte)
  | illegalCommand
deriving DecidableEq, Repr

/-- R33: a response. `status` is the 4-bit field the host reads, `info` the 8-bit one, `data` 0 to 255 bytes. -/
structure Response where
  status : BitVec 4
  info : Byte
  data : List Byte
deriving DecidableEq, Repr

/-- R13, R41: the events of the transport trace, one per primitive. `topen` and `tx` carry `ok` (true) or
`fail` (false), `rx` the byte read or none. -/
inductive Event where
  | topen (path : Path) (ok : Bool)
  | tclose
  | setBaud (r : Baud)
  | clear
  | tx (b : Byte) (ok : Bool)
  | rx (r : Option Byte)
deriving DecidableEq, Repr

/-- The machine's state: the fields of R20's table under their own names, the command interface, the parameter
`OPEN_DRAIN_ECHO`, and three fields of the model's own (`trace`, `env`, `drawn`). -/
structure State where
  /-- `OPEN` (R23). -/
  isOpen : Bool
  /-- `BAUD` (R24). While `OPEN = 0` it has no meaning and no rule reads it. -/
  baud : Baud
  /-- `TIMEOUT` (R25): none until an OPEN gives it. -/
  timeout : Option Duration
  /-- `CRC` (R28). -/
  crc : Byte
  /-- `CTRL` (R26). -/
  ctrl : Ctrl
  /-- `ACC` (R29), transient: what a finished command leaves in it no rule reads. -/
  acc : Byte
  /-- `CNT` (R29), transient: the slots done of the current byte, 0 to 8. -/
  cnt : Nat
  /-- `CNT` as OW_READ_BYTES uses it (R20: "count of bytes"), transient: the bytes read so far. -/
  byteCnt : Nat
  /-- The transport's pending input (R31), the environment's, drawn anew when a command begins; emptied by
  `ClearBuffers`. -/
  pendingIn : List Byte
  /-- The transport's pending output (R31), the environment's, drawn anew when a command begins; emptied by
  `ClearBuffers`. -/
  pendingOut : List Byte
  /-- The last command's response (R20, R33); none before the first. -/
  response : Option Response
  /-- The last command's transport trace (R13); the model's own observation. -/
  trace : List Event
  /-- The command interface (R4, R60): the commands the host presents, in issue order. The block takes the head
  when it is waiting, one at a time (R52). -/
  commands : List Request
  /-- The parameter `OPEN_DRAIN_ECHO` (R8, R43). No command writes it. -/
  openDrainEcho : Bool
  /-- The environment's coming answers (R4, R43), head first; the model's own. Past its end an answer is
  `Config.freeAnswer`. -/
  env : List Answer
  /-- How many answers have been drawn; the model's own, the index of `Config.freeAnswer`. -/
  drawn : Nat
deriving DecidableEq, Repr

/-- What stops the machine with a fault. No command of the block faults: its errors are responses (R160). -/
inductive Fault where
  /-- A host decoded a response status 9 to 15, which is reserved and never produced (R161, U12: "a model that
  decodes a response must `fault` on one"). Raised by `Status.ofCode` in the host protocol, never by a step.
  Safe: the spec asks for it. -/
  | reservedStatus (code : BitVec 4)
deriving DecidableEq, Repr

/-- What the model refuses (R163: refusals are not errors and get no response). -/
inductive Refusal where
  /-- An arm of `exec` without a meaning. None is left. Safe. -/
  | notModelled (mnemonic : String)
  /-- A command presented while `CTRL = BUSY` (R27, U1). Raised by the admission of every command. Safe. -/
  | commandInFlight
  /-- OPEN while `OPEN = 1` (R120, U2). Raised by OPEN. Safe. -/
  | openWhileOpen
  /-- OPEN with a timeout that is not positive (R120, U2). Raised by OPEN. Safe. -/
  | timeoutNotPositive
  /-- CLOSE while `OPEN = 0` (R121, U2). Raised by CLOSE. Safe. -/
  | closeWhileClosed
deriving DecidableEq, Repr

/-- The state after power-on reset (R34, R180): closed, `CRC` 0, no timeout, no response pending, waiting for the
first command. The values R34 leaves open are named in notes/assumptions/2.md (`BAUD`), 3.md (`ACC`, `CNT`) and
4.md (the pending buffers). -/
def State.reset : State where
  isOpen := false
  baud := .b9600
  timeout := none
  crc := 0x00
  ctrl := .closed
  acc := 0x00
  cnt := 0
  byteCnt := 0
  pendingIn := []
  pendingOut := []
  response := none
  trace := []
  commands := []
  openDrainEcho := Config.openDrainEchoDefault
  env := []
  drawn := 0

end Sys2Proof.Machine
end

