-- ==== Sys2Proof/Machine/Operands.lean ====
section
/-!
DEFINITION. The operand forms of the commands (R61) and what they become on the wire (R66).
-/

namespace Sys2Proof.Machine

/-- R66: the UART byte of a bit slot, `0xFF` for a 1 (and for a read or release), `0x00` for a 0. -/
def slotByte (v : Bool) : Byte := if v then Config.slotOne else Config.slotZero

/-- The operand of OW_WRITE_BIT (R61, R102): the bit `v`. -/
def bitValue (v : BitVec 1) : Bool := v == 1

/-- The operand of OW_WRITE_BYTE (R61, R108): the bit slot `i` sends is `b[i]`. -/
def byteBit (b : Byte) (i : Nat) : Bool := b.getLsbD i

/-- The operand of OW_READ_BYTES (R61, R124): an unsigned count, 0 to 255. -/
def byteCount (n : Byte) : Nat := n.toNat

/-- R11, R102: `zext_8` of a bit, `0x00` or `0x01`. -/
def zext8 (v : Bool) : Byte := if v then 0x01 else 0x00

end Sys2Proof.Machine
end

