-- ==== Sys2Proof/Machine/Flags.lean ====
section
/-!
DEFINITION. The two condition values of R30 (the observed bit of a slot and the PresenceResult of a reset), the
accumulation of observed bits (R108), and the numeric status codes (R161).
-/

namespace Sys2Proof.Machine

/-- R67, R101: the bit a slot decodes from its echo. -/
def observed (e : Byte) : Bool := e == 0xFF

/-- R108: `ACC[i] <- v`. -/
def setBit (acc : Byte) (i : Nat) (v : Bool) : Byte :=
  if v then acc ||| ((1 : Byte) <<< i) else acc &&& ~~~((1 : Byte) <<< i)

/-- R30: the PresenceResult of a reset. -/
inductive PresenceResult where
  | present
  | noDevice
  | shortCircuit
  | malformed (p : Byte)
deriving DecidableEq, Repr

/-- R69, R122: the echo of the reset pulse, classified. -/
def classifyPresence (p : Byte) : PresenceResult :=
  if p = Config.presenceNone then .noDevice
  else if p = Config.presenceShort then .shortCircuit
  else if Config.presenceLo ≤ p ∧ p ≤ Config.presenceHi then .present
  else .malformed p

/-- R161: the status codes. -/
def Status.code : Status → BitVec 4
  | .ok => 0
  | .notConnected => 1
  | .ioError => 2
  | .noDevice => 3
  | .shortCircuit => 4
  | .presenceError => 5
  | .protocolError => 6
  | .crcError => 7
  | .illegalCommand => 8

/-- R161, U12: the host's reading of a status code; a reserved one is a fault. -/
def Status.ofCode (c : BitVec 4) : Except Fault Status :=
  if c = 0 then .ok .ok
  else if c = 1 then .ok .notConnected
  else if c = 2 then .ok .ioError
  else if c = 3 then .ok .noDevice
  else if c = 4 then .ok .shortCircuit
  else if c = 5 then .ok .presenceError
  else if c = 6 then .ok .protocolError
  else if c = 7 then .ok .crcError
  else if c = 8 then .ok .illegalCommand
  else .error (.reservedStatus c)

/-- R161: the status an error reports. -/
def BlockError.status : BlockError → Status
  | .notConnected => .notConnected
  | .io => .ioError
  | .noDevice => .noDevice
  | .shortCircuit => .shortCircuit
  | .presence _ => .presenceError
  | .protocol _ => .protocolError
  | .illegalCommand => .illegalCommand

/-- R33, R161: the INFO an error reports; `0x00` but for the two that carry a byte. -/
def BlockError.info : BlockError → Byte
  | .notConnected => 0x00
  | .io => 0x00
  | .noDevice => 0x00
  | .shortCircuit => 0x00
  | .presence p => p
  | .protocol acc => acc
  | .illegalCommand => 0x00

/-- R33: the response of a command that succeeded. -/
def Response.success (data : List Byte) : Response :=
  { status := Status.code .ok, info := 0x00, data := data }

/-- R33, R160: the response of a command that failed, with empty data. -/
def Response.failure (e : BlockError) : Response :=
  { status := e.status.code, info := e.info, data := [] }

end Sys2Proof.Machine
end

