-- ==== Sys2Proof/Machine/Ops.lean ====
section
/-!
DEFINITION. The shared operations: the environment's answers, the transport primitives (R41), one exchange of a
byte on the line (R68, R100), raising an error (R160, R166), and the frame every command runs in (R26, R33).
-/

namespace Sys2Proof.Machine

/-! ### The environment's answers (R43) -/

/-- The `k`-th answer from now to `ask`: the one `env` holds, else the free value. -/
def State.answerAt (s : State) (k : Nat) (ask : Ask) : Answer :=
  (s.env[k]?).getD (Config.freeAnswer (s.drawn + k) ask)

/-- One answer has been drawn. -/
def State.consume (s : State) : State := { s with env := s.env.tail, drawn := s.drawn + 1 }

/-- R20, R31, U5: the pending buffers are the environment's own, so when a command begins they hold any contents, a
draw: what was left there, a late echo, line noise, or nothing. -/
def State.lineActs (s : State) : State :=
  { s.consume with pendingIn := (s.answerAt 0 .between).arrived, pendingOut := (s.answerAt 0 .between).unsent }

/-- R13: append one event to the transport trace. -/
def State.emit (s : State) (e : Event) : State := { s with trace := s.trace ++ [e] }

/-- R43: a byte the environment puts on the line after `sent` was sent. With `OPEN_DRAIN_ECHO` every echo `e`
satisfies `e & ~sent = 0`; without it the byte is unconstrained. -/
def lineByte (openDrain : Bool) (sent e : Byte) : Byte := if openDrain then e &&& sent else e

/-! ### The transport primitives (R41) -/

/-- `TOpen(path)`. An opened transport brings its own pending buffers (R31, U5). -/
def tOpen (path : Path) (s : State) : State × Bool :=
  let a := s.answerAt 0 (.topen path)
  let s := s.consume.emit (.topen path a.ok)
  (if a.ok then { s with pendingIn := a.arrived, pendingOut := a.unsent } else s, a.ok)

/-- `TClose()`; it cannot fail. -/
def tClose (s : State) : State := s.emit .tclose

/-- `SetBaud(r)`; it cannot fail. -/
def setBaud (r : Baud) (s : State) : State := State.emit { s with baud := r } (.setBaud r)

/-- `ClearBuffers()`; it discards all pending input and output (R50) and cannot fail. -/
def clearBuffers (s : State) : State := State.emit { s with pendingIn := [], pendingOut := [] } .clear

/-- `Tx(b)`: send one byte at the rate in `BAUD`. -/
def tx (b : Byte) (s : State) : State × Bool :=
  let a := s.answerAt 0 (.tx s.baud b)
  (State.emit { s.consume with pendingOut := a.unsent } (.tx b a.ok), a.ok)

/-- The bytes an `Rx()` after `sent` finds: those already pending, then those that arrive within `TIMEOUT`. -/
def State.received (s : State) (sent : Byte) : List Byte :=
  s.pendingIn ++ (s.answerAt 0 (.rx s.baud s.timeout sent)).arrived.map (lineByte s.openDrainEcho sent)

/-- `Rx()` (R42): the first byte of `received`, or none; what follows it stays pending. `sent` is the byte sent
before, which only `OPEN_DRAIN_ECHO` looks at. -/
def rx (sent : Byte) (s : State) : State × Option Byte :=
  let a := s.answerAt 0 (.rx s.baud s.timeout sent)
  (State.emit { s.consume with pendingIn := (s.received sent).tail, pendingOut := a.unsent }
    (.rx (s.received sent).head?), (s.received sent).head?)

/-! ### Results of a command's body (R12) -/

/-- How a command's body ends: `return (a)`, or `raise e`. -/
inductive Result (α : Type) where
  | ret (s : State) (a : α)
  | raise (s : State) (e : BlockError)
deriving DecidableEq, Repr

/-- The state a body ends in. -/
def Result.state {α : Type} : Result α → State
  | .ret s _ => s
  | .raise s _ => s

/-- R12: `finally`: `f` runs on every exit path, before the response is returned. -/
def Result.andFinally {α : Type} (r : Result α) (f : State → State) : Result α :=
  match r with
  | .ret s a => .ret (f s) a
  | .raise s e => .raise (f s) e

/-- R68, R100: clear the buffers, send one byte, read one byte back. A failed `Tx`, or an `Rx` that returns
nothing, raises IoError. -/
def exchange (sent : Byte) (s : State) : Result Byte :=
  let p := tx sent (clearBuffers s)
  if p.2 then
    match (rx sent p.1).2 with
    | none => .raise (rx sent p.1).1 .io
    | some e => .ret (rx sent p.1).1 e
  else .raise p.1 .io

/-- R125: `require_open()`. -/
def requireOpen {α : Type} (body : State → Result α) (s : State) : Result α :=
  if s.isOpen then body s else .raise s .notConnected

/-! ### The frame of a command (R26, R33, R166) -/

/-- R26: a command sets `BUSY` while it runs; its trace starts empty (R13). -/
def State.beginCommand (s : State) : State := { s with ctrl := .busy, trace := [] }

/-- R26, R33: at its end a command gives its one response and `CTRL` returns to `IDLE` if `OPEN = 1` and to
`CLOSED` if `OPEN = 0`. -/
def State.endCommand (s : State) (r : Response) : State :=
  { s with ctrl := if s.isOpen then .idle else .closed, response := some r }

/-- Taking an error (R160, R166): it saves `STATUS` and `INFO` in the response, with empty data, and the command
ends. -/
def State.raiseError (s : State) (e : BlockError) : State := s.endCommand (Response.failure e)

/-- A command that succeeds: STATUS OK and its data (R12, R33). -/
def State.returnData (s : State) (data : List Byte) : State := s.endCommand (Response.success data)

/-- The end of a command, from how its body ended. -/
def finish : Result (List Byte) → State
  | .ret s data => s.returnData data
  | .raise s e => s.raiseError e

/-- R26, R27: admit a command and run its body. -/
def runCommand (body : State → Result (List Byte)) (s : State) : Host.Outcome State Fault Refusal :=
  if s.ctrl = .busy then .refused .commandInFlight else .next (finish (body s.beginCommand))

/-- R63: an illegal word completes at once with ILLEGAL_COMMAND. -/
def execIllegal (s : State) : Host.Outcome State Fault Refusal :=
  runCommand (fun s => .raise s .illegalCommand) s

/-! ### The environment as a command meets it -/

/-- `s` as far as the environment's answers go, once `n` of them have been drawn and the rate is `r`. -/
def State.later (s : State) (n : Nat) (r : Baud) : State :=
  { s with env := s.env.drop n, drawn := s.drawn + n, baud := r }

/-- Whether the `j`-th exchange from now, all before it having completed, gets its byte `sent` out. -/
def State.slotSent (s : State) (j : Nat) (sent : Byte) : Bool := (s.answerAt (2 * j) (.tx s.baud sent)).ok

/-- What the `j`-th exchange from now reads back, all before it having completed: the first byte that arrives
after the clear, or none (R42, R100). -/
def State.slotHeard (s : State) (j : Nat) (sent : Byte) : Option Byte :=
  ((s.answerAt (2 * j + 1) (.rx s.baud s.timeout sent)).arrived.map (lineByte s.openDrainEcho sent)).head?

/-- The echo of the `j`-th exchange from now, or none where it raises IoError. -/
def State.slotEcho (s : State) (j : Nat) (sent : Byte) : Option Byte :=
  if s.slotSent j sent then s.slotHeard j sent else none

/-- The events of the `j`-th exchange from now (R100). -/
def State.slotTrace (s : State) (j : Nat) (sent : Byte) : List Event :=
  if s.slotSent j sent then [.clear, .tx sent true, .rx (s.slotHeard j sent)] else [.clear, .tx sent false]

/-- How many answers the `j`-th exchange from now draws: one for its `Tx`, one for its `Rx` if it gets there. -/
def State.slotDraws (s : State) (j : Nat) (sent : Byte) : Nat := if s.slotSent j sent then 2 else 1

/-- The events of the first `n` exchanges from now. -/
def State.slotsTrace (s : State) (sent : Nat → Byte) (n : Nat) : List Event :=
  (List.range n).flatMap fun j => s.slotTrace j (sent j)

end Sys2Proof.Machine
end

