-- ==== Sys2Proof/Machine/BitEngine.lean ====
section
/-!
DEFINITION. The bit transceiver (spec/41_bit_engine.md): the slot, the eight slots of a byte, and the commands
OW_WRITE_BIT, OW_READ_BIT, OW_WRITE_BYTE and OW_READ_BYTE. None of them writes `BAUD` (R107).
-/

namespace Sys2Proof.Machine

/-- R100: one bit transaction with the sent byte; the echo, or IoError. -/
def slot (sent : Byte) (s : State) : Result Byte := exchange sent s

/-- R101, R102: one slot, its observed bit returned as one data byte. -/
def bitBody (sent : Byte) (s : State) : Result (List Byte) :=
  match slot sent s with
  | .raise s e => .raise s e
  | .ret s e => .ret s [zext8 (observed e)]

/-- R108: the observed bit of slot `CNT` is written to `ACC[CNT]`. -/
def State.record (s : State) (v : Bool) : State :=
  { s with acc := setBit s.acc s.cnt v, cnt := s.cnt + 1 }

/-- `n` slots, slot number `CNT` sending `sent CNT`; the first that raises IoError ends them (R106). -/
def byteSlots (sent : Nat → Byte) : Nat → State → Result Unit
  | 0, s => .ret s ()
  | n + 1, s =>
    match slot (sent s.cnt) s with
    | .raise s e => .raise s e
    | .ret s e => byteSlots sent n (s.record (observed e))

/-- R29: `ACC` is 0 at the start of each byte command, and so is `CNT`. -/
def State.startByte (s : State) : State := { s with acc := 0x00, cnt := 0 }

/-- R104, R105: the eight slots of a byte, least significant bit first, accumulated in `ACC`. -/
def byteTransaction (sent : Nat → Byte) (s : State) : Result Unit :=
  byteSlots sent Config.bitsPerByte s.startByte

/-- The bytes a write of `b` sends (R108). -/
def writeSlots (b : Byte) (i : Nat) : Byte := slotByte (byteBit b i)

/-- The bytes a read sends: release pulses (R105). -/
def readSlots (_ : Nat) : Byte := Config.slotOne

/-- R104: after all eight slots `ACC` is compared with the byte written. -/
def writeByteBody (b : Byte) (s : State) : Result (List Byte) :=
  match byteTransaction (writeSlots b) s with
  | .raise s e => .raise s e
  | .ret s _ => if s.acc = b then .ret s [] else .raise s (.protocol s.acc)

/-- R105: eight release pulses, `ACC` returned, no echo comparison (90_conflicts.md C1). -/
def readByteBody (s : State) : Result Byte :=
  match byteTransaction readSlots s with
  | .raise s e => .raise s e
  | .ret s _ => .ret s s.acc

/-- R102: OW_WRITE_BIT v. -/
def execOwWriteBit (v : BitVec 1) (s : State) : Host.Outcome State Fault Refusal :=
  runCommand (requireOpen (bitBody (slotByte (bitValue v)))) s

/-- R103: OW_READ_BIT, the release pulse. -/
def execOwReadBit (s : State) : Host.Outcome State Fault Refusal :=
  runCommand (requireOpen (bitBody Config.slotOne)) s

/-- R104: OW_WRITE_BYTE b. -/
def execOwWriteByte (b : Byte) (s : State) : Host.Outcome State Fault Refusal :=
  runCommand (requireOpen (writeByteBody b)) s

/-- R105: the read byte as the command's data. -/
def readByteData (s : State) : Result (List Byte) :=
  match readByteBody s with
  | .raise s e => .raise s e
  | .ret s b => .ret s [b]

/-- R105: OW_READ_BYTE. -/
def execOwReadByte (s : State) : Host.Outcome State Fault Refusal :=
  runCommand (requireOpen readByteData) s

end Sys2Proof.Machine
end

