-- ==== Sys2Proof/Machine/BusController.lean ====
section
/-!
DEFINITION. The bus controller (spec/42_bus_controller.md): OPEN, CLOSE, OW_RESET and OW_READ_BYTES.
-/

namespace Sys2Proof.Machine

/-- R120: OPEN's body, from `TOpen` on. -/
def openBody (path : Path) (timeout : Duration) (s : State) : Result (List Byte) :=
  let p := tOpen path s
  if p.2 then .ret { setBaud Config.baudBit p.1 with timeout := some timeout, isOpen := true } []
  else .raise p.1 .io

/-- R120: OPEN path, timeout. It is refused while the transport is open (D17) and with a timeout that is not
positive (D23). -/
def execOpen (path : Path) (timeout : Duration) (s : State) : Host.Outcome State Fault Refusal :=
  if s.ctrl = .busy then .refused .commandInFlight
  else if s.isOpen then .refused .openWhileOpen
  else if 0 < timeout then runCommand (openBody path timeout) s
  else .refused .timeoutNotPositive

/-- R121: CLOSE's body. `BAUD` and `TIMEOUT` lose their meaning and are not written. -/
def closeBody (s : State) : Result (List Byte) := .ret { tClose s with isOpen := false } []

/-- R121: CLOSE. It is refused while the transport is closed (D17). -/
def execClose (s : State) : Host.Outcome State Fault Refusal :=
  if s.ctrl = .busy then .refused .commandInFlight
  else if s.isOpen then runCommand closeBody s
  else .refused .closeWhileClosed

/-- R123: the error, if any, a PresenceResult is reported as. -/
def PresenceResult.verdict : PresenceResult → Option BlockError
  | .present => none
  | .noDevice => some .noDevice
  | .shortCircuit => some .shortCircuit
  | .malformed p => some (.presence p)

/-- R123: the reset pulse at 9600 baud, the rate restored on every exit path (R126), then the classification. -/
def resetBody (s : State) : Result (List Byte) :=
  match (exchange Config.resetPulse (setBaud Config.baudReset s)).andFinally (setBaud Config.baudBit) with
  | .raise s e => .raise s e
  | .ret s p =>
    match (classifyPresence p).verdict with
    | none => .ret s []
    | some e => .raise s e

/-- R123: OW_RESET. -/
def execOwReset (s : State) : Host.Outcome State Fault Refusal :=
  runCommand (requireOpen resetBody) s

/-- R20, R124: `CNT`'s count of bytes is 0 at the start of OW_READ_BYTES. -/
def State.startBytes (s : State) : State := { s with byteCnt := 0 }

/-- R20, R124: one more byte has been read. -/
def State.countByte (s : State) : State := { s with byteCnt := s.byteCnt + 1 }

/-- R124: read `n` more bytes after those in `out`; `CNT`'s count of bytes follows. -/
def readBytesLoop : Nat → List Byte → State → Result (List Byte)
  | 0, out, s => .ret s out
  | n + 1, out, s =>
    match readByteBody s with
    | .raise s e => .raise s e
    | .ret s b => readBytesLoop n (out ++ [b]) s.countByte

/-- R124: OW_READ_BYTES' body. -/
def readBytesBody (n : Byte) (s : State) : Result (List Byte) :=
  readBytesLoop (byteCount n) [] s.startBytes

/-- R124: OW_READ_BYTES n. -/
def execOwReadBytes (n : Byte) (s : State) : Host.Outcome State Fault Refusal :=
  runCommand (requireOpen (readBytesBody n)) s

end Sys2Proof.Machine
end

