-- ==== Sys2Proof/Machine/Crc8.lean ====
section
/-!
DEFINITION. The CRC-8 generator (spec/40_crc8.md): the function of R80 to R82 and the commands CRC_INIT, CRC_BYTE
and CRC_READ.
-/

namespace Sys2Proof.Machine

/-- R80: the bit step. `d`'s bit 0 is the current input bit. -/
def crcBit (c d : Byte) : Byte :=
  if (c ^^^ d) &&& 1 = 1 then (c >>> 1) ^^^ Config.crcPolyReflected else c >>> 1

/-- R81: `n` bit steps, the input byte shifted right by one after each. -/
def crcSteps : Nat → Byte → Byte → Byte
  | 0, c, _ => c
  | n + 1, c, d => crcSteps n (crcBit c d) (d >>> 1)

/-- R81: the byte step. -/
def crcByte (c b : Byte) : Byte := crcSteps Config.bitsPerByte c b

/-- R82: the checksum of a byte sequence. -/
def crc8 (bs : List Byte) : Byte := bs.foldl crcByte Config.crcSeed

/-- R88: a sequence is CRC-valid when the checksum of all but its last byte equals its last byte. -/
def crcValid (t : List Byte) : Bool := t.getLast? == some (crc8 t.dropLast)

/-- R83: CRC_INIT. -/
def execCrcInit (s : State) : Host.Outcome State Fault Refusal :=
  runCommand (fun s => .ret { s with crc := Config.crcSeed } []) s

/-- R84: CRC_BYTE b. -/
def execCrcByte (b : Byte) (s : State) : Host.Outcome State Fault Refusal :=
  runCommand (fun s => .ret { s with crc := crcByte s.crc b } []) s

/-- R85: CRC_READ. -/
def execCrcRead (s : State) : Host.Outcome State Fault Refusal :=
  runCommand (fun s => .ret s [s.crc]) s

end Sys2Proof.Machine
end

