-- ==== Sys2Proof/Machine/Dispatch.lean ====
section
/-!
DEFINITION. exec: one arm per command (spec/opcode_table.json).
-/

namespace Sys2Proof.Machine

def exec (i : Instr) (s : State) : Host.Outcome State Fault Refusal :=
  match i with
  | .openTransport path timeout => Sys2Proof.Machine.execOpen path timeout s
  | .closeTransport => Sys2Proof.Machine.execClose s
  | .owReset => Sys2Proof.Machine.execOwReset s
  | .owWriteBit v => Sys2Proof.Machine.execOwWriteBit v s
  | .owReadBit => Sys2Proof.Machine.execOwReadBit s
  | .owWriteByte b => Sys2Proof.Machine.execOwWriteByte b s
  | .owReadByte => Sys2Proof.Machine.execOwReadByte s
  | .owReadBytes n => Sys2Proof.Machine.execOwReadBytes n s
  | .crcInit => Sys2Proof.Machine.execCrcInit s
  | .crcByte b => Sys2Proof.Machine.execCrcByte b s
  | .crcRead => Sys2Proof.Machine.execCrcRead s

end Sys2Proof.Machine
end

