-- ==== Sys2Proof/Machine/Fetch.lean ====
section
/-!
DEFINITION. The command interface (R4, R22, R60): taking the command the host presents, and running it or
answering that its word is illegal.
-/

namespace Sys2Proof.Machine

/-- The command that is being taken leaves the interface. -/
def State.takeCommand (s : State) : State := { s with commands := s.commands.tail }

/-- R22, R63, R164: a word that decodes runs its command; any other is an illegal command. -/
def execRequest (r : Request) (s : State) : Host.Outcome State Fault Refusal :=
  match decode r with
  | .ok i => exec i s
  | .error _ => execIllegal s

/-- R22, R52: the block takes the command presented, executes it whole and responds; what the pending buffers hold by
then is the environment's (R31). R180: with none presented it waits, and nothing changes. -/
def takeNext (s : State) : Host.Outcome State Fault Refusal :=
  match s.commands with
  | [] => .next s
  | r :: _ => execRequest r s.lineActs.takeCommand

/-- The host presents one more request, ahead of any other (R60). -/
def State.present (s : State) (r : Request) : State := { s with commands := r :: s.commands }

end Sys2Proof.Machine
end

