-- ==== Sys2Proof/Machine/Step.lean ====
section
/-!
DEFINITION. One step of the block is one command (R22, R52).
-/

namespace Sys2Proof.Machine

/-- One step of the machine. -/
def step (s : State) : Host.Outcome State Fault Refusal := takeNext s

/-- A table row's word is presented to the block as its next command (notes/assumptions/10.md). -/
def State.withFetchWord (s : State) (nbits w : Nat) : State := s.present (tableRequest nbits w)

end Sys2Proof.Machine
end

