-- ==== Sys2Proof/Machine/Protocol.lean ====
section
/-!
DEFINITION. The block's host (spec/43_host_protocol.md, the Device Protocol Layer): the data formats, the
temperature decode, the pseudo-instructions of R65, and the sequences READ_ROM and READ_TEMPERATURE, issued to the
block one command word at a time. It is an agent outside the block (R4): `step` calls nothing of it.
-/

namespace Sys2Proof.Machine

/-! ### Data formats -/

/-- R140: the layout of a RomCode. -/
structure RomCode where
  family : Byte
  serial : List Byte
  crc : Byte
deriving DecidableEq, Repr

/-- R140: 1 family byte, 6 serial bytes, 1 CRC byte; any other length is no RomCode. -/
def RomCode.ofBytes : List Byte → Option RomCode
  | [f, s1, s2, s3, s4, s5, s6, c] => some { family := f, serial := [s1, s2, s3, s4, s5, s6], crc := c }
  | _ => none

/-- R141 (90_conflicts.md C2): the layout of a Scratchpad. -/
structure Scratchpad where
  tempLow : Byte
  tempHigh : Byte
  config : List Byte
  crc : Byte
deriving DecidableEq, Repr

/-- R141: 2 temperature bytes, 6 reserved or config bytes, 1 CRC byte; any other length is no Scratchpad. -/
def Scratchpad.ofBytes : List Byte → Option Scratchpad
  | [lo, hi, c2, c3, c4, c5, c6, c7, c] =>
    some { tempLow := lo, tempHigh := hi, config := [c2, c3, c4, c5, c6, c7], crc := c }
  | _ => none

/-- R144: bytes 0 and 1 as a little-endian two's-complement 16-bit integer, in sixteenths of a degree. -/
def rawTemperature (lo hi : Byte) : Int := (((hi.setWidth 16) <<< 8) ||| (lo.setWidth 16)).toInt

/-- R144: the temperature, `raw / 16`. Exact, so the floating format of D30 changes nothing. -/
def temperature (sp : Scratchpad) : Rat := (rawTemperature sp.tempLow sp.tempHigh : Rat) / 16

/-! ### Pseudo-instructions -/

/-- R65: the pseudo-instructions. -/
inductive Pseudo where
  | owWriteBytes (bs : List Byte)
  | crc8 (bs : List Byte)
  | owRelease
deriving DecidableEq, Repr

/-- R65: what a pseudo-instruction expands to. -/
def Pseudo.expand : Pseudo → List Instr
  | .owWriteBytes bs => bs.map .owWriteByte
  | .crc8 bs => .crcInit :: (bs.map .crcByte ++ [.crcRead])
  | .owRelease => [.owReadBit]

/-! ### The host -/

/-- A step of a host's sequence: a command to the block, or a wait (R147). -/
inductive HostStep where
  | cmd (i : Instr)
  | wait (d : Duration)
deriving DecidableEq, Repr

/-- Commands as host steps, one after another. -/
def hostCommands (is : List Instr) : List HostStep := is.map .cmd

/-- The host and the block it drives: what the host has done so far, and the block's state. -/
structure HostState where
  log : List HostStep
  block : State
deriving DecidableEq, Repr

/-- How a host's sequence ends. An error holds no payload (R145: it is discarded entirely). -/
inductive HostEnd (α : Type) where
  /-- The sequence's result. -/
  | done (h : HostState) (result : α)
  /-- The first error any step gave (R149). -/
  | failed (h : HostState) (status : Status) (info : Byte)
  /-- The block refused a command (R163). -/
  | refused (h : HostState) (r : Refusal)
  /-- A fault, the host's own on a reserved status (U12). -/
  | fault (h : HostState) (f : Fault)
  /-- No response came: the host waits for it (R52). -/
  | awaiting (h : HostState)

/-- Presenting a command logs it and puts its word on the command interface (R60). -/
def HostState.sending (h : HostState) (i : Instr) : HostState :=
  { log := h.log ++ [.cmd i], block := h.block.present (encode i) }

/-- What a host does with the response to a command: on OK it goes on with the data, on any other status it
reports that error unchanged and stops (R149). -/
def answer {α : Type} (h : HostState) (k : HostState → List Byte → HostEnd α) : HostEnd α :=
  match h.block.response with
  | none => .awaiting h
  | some r =>
    match Status.ofCode r.status with
    | .error f => .fault h f
    | .ok .ok => k h r.data
    | .ok st => .failed h st r.info

/-- The host issues one command, waits for its response (R52), and goes on as `answer` says. -/
def issue {α : Type} (i : Instr) (h : HostState) (k : HostState → List Byte → HostEnd α) : HostEnd α :=
  match step (h.sending i).block with
  | .next t => answer { log := (h.sending i).log, block := t } k
  | .fault f => .fault (h.sending i) f
  | .refused r => .refused (h.sending i) r

/-- R147: the host waits. The block has no timer and performs no wait, so its state is as before. -/
def hostWait {α : Type} (d : Duration) (h : HostState) (k : HostState → HostEnd α) : HostEnd α :=
  k { h with log := h.log ++ [.wait d] }

/-- The host issues a list of commands, each only if the one before it succeeded; the last one's data is handed
on (`[]` if there is none). -/
def issueAll {α : Type} : List Instr → List Byte → HostState → (HostState → List Byte → HostEnd α) → HostEnd α
  | [], data, h, k => k h data
  | i :: is, _, h, k => issue i h fun h data => issueAll is data h k

/-- R142, R143: the host's CRC check. `t` is what was read; the checksum of all but its last byte, computed by the
block (R148), is compared with the last byte. On a mismatch the payload is discarded and CrcError reported
(R145). -/
def checkCrc {α : Type} (t : List Byte) (h : HostState) (k : HostState → HostEnd α) : HostEnd α :=
  issueAll (Pseudo.crc8 t.dropLast).expand [] h fun h data =>
    if data.head? = t.getLast? then k h else .failed h .crcError 0x00

/-- R70: "Read ROM command". -/
def cmdReadRom : Byte := 0x33
/-- R70: "Skip ROM". -/
def cmdSkipRom : Byte := 0xCC
/-- R70: "Convert T". -/
def cmdConvertT : Byte := 0x44
/-- R70: "Read Scratchpad". -/
def cmdReadScratchpad : Byte := 0xBE

/-- R142: READ_ROM's commands up to the read. -/
def readRomCommands : List Instr := [.owReset, .owWriteByte cmdReadRom, .owReadBytes 8]

/-- R142: READ_ROM. -/
def readRom (h : HostState) : HostEnd (List Byte) :=
  issueAll readRomCommands [] h fun h rom => checkCrc rom h fun h => .done h rom

/-- R143: READ_TEMPERATURE's commands before the conversion wait. -/
def convertCommands : List Instr := [.owReset, .owWriteByte cmdSkipRom, .owWriteByte cmdConvertT]

/-- R143: READ_TEMPERATURE's commands after the conversion wait, up to the read. -/
def scratchpadCommands : List Instr :=
  [.owReset, .owWriteByte cmdSkipRom, .owWriteByte cmdReadScratchpad, .owReadBytes 9]

/-- R143: READ_TEMPERATURE, with the host's parameter `SETTLE_TIME` (R8, R147; its default is
`Config.settleTimeDefault`). R8 gives it no range: DESIGN CHOICE (notes/assumptions/20.md), any duration is taken, zero
and negative ones included, and logged as a wait of that length. The result is none only for a read that is no 9-byte scratchpad, which a successful
OW_READ_BYTES 9 is not. -/
def readTemperature (settleTime : Duration) (h : HostState) : HostEnd (Option Rat) :=
  issueAll convertCommands [] h fun h _ =>
  hostWait settleTime h fun h =>
  issueAll scratchpadCommands [] h fun h sp =>
  checkCrc sp h fun h => .done h ((Scratchpad.ofBytes sp).map temperature)

end Sys2Proof.Machine
end

