-- ==== Sys2Proof/Safety.lean ====
section
/-!
DEFINITION. What counts as a legal state of the block between commands, what a legal response is, and the
observation of a run (R13): the terms the statements use.
-/

namespace Sys2Proof.Machine

/-- R33, R161: a response the block may give: a status a block command produces (not CRC_ERROR, not a reserved
code), at most 255 data bytes, no data on error, and INFO `0x00` but for PRESENCE_ERROR and PROTOCOL_ERROR. -/
structure Response.Legal (r : Response) : Prop where
  code : ∃ st : Status, st ≠ .crcError ∧ r.status = st.code
  length : r.data.length ≤ 255
  noDataOnError : r.status ≠ Status.code .ok → r.data = []
  info : r.status ≠ Status.code .presenceError → r.status ≠ Status.code .protocolError → r.info = 0x00

/-- The invariant of the block between commands: `CTRL` is `IDLE` if open and `CLOSED` if closed, never `BUSY`
(R26); while open, `BAUD = B115200` (R24) and `TIMEOUT` is a positive duration (R25); `CNT` is 0 to 8 and the
count of bytes at most 255 (R20); the last response is a legal one (R33, R161). -/
structure State.Inv (s : State) : Prop where
  ctrl : s.ctrl = if s.isOpen then .idle else .closed
  baud : s.isOpen = true → s.baud = .b115200
  timeout : s.isOpen = true → ∃ d, s.timeout = some d ∧ 0 < d
  cnt : s.cnt ≤ 8
  byteCnt : s.byteCnt ≤ 255
  response : ∀ r, s.response = some r → r.Legal

/-- R13: the observation of the command executed last. -/
structure Observation where
  response : Option Response
  trace : List Event
deriving DecidableEq, Repr

/-- R13: what the block's last command shows. -/
def State.observation (s : State) : Observation := { response := s.response, trace := s.trace }

/-- R13, R52: the observations of the next `k` commands, in issue order, up to the first refusal or until no
command is presented. -/
def observations : Nat → State → List Observation
  | 0, _ => []
  | k + 1, s =>
    match s.commands, step s with
    | [], _ => []
    | _ :: _, .next t => t.observation :: observations k t
    | _ :: _, .fault _ => []
    | _ :: _, .refused _ => []

/-- R52: the transport trace of a run is the concatenation, in issue order, of its commands' traces. -/
def runTrace (k : Nat) (s : State) : List Event := (observations k s).flatMap Observation.trace

/-! What a device sends, said of the environment's coming answers. -/

/-- R69: the next exchange, sending the reset pulse, is echoed by a byte of the Present range. -/
def State.PresenceAnswered (s : State) : Prop := ∃ e : Byte, 0x10 ≤ e ∧ e ≤ 0xE0 ∧ s.slotEcho 0 0xF0 = some e

/-- R104: the next eight exchanges, sending the slots of `b`, are observed as the bits of `b`; a perfect echo is. -/
def State.WriteEchoed (s : State) (b : Byte) : Prop :=
  ∀ i < 8, (s.slotEcho i (if b.getLsbD i then 0xFF else 0x00)).map observed = some (b.getLsbD i)

/-- R44: the next exchanges, sending release pulses, are observed as the bits of `bs`, bytes in order and each least
significant bit first. -/
def State.ReadSpells (s : State) (bs : List Byte) : Prop :=
  ∀ (k i : Nat) (b : Byte), bs[k]? = some b → i < 8 →
    (s.slotEcho (8 * k + i) 0xFF).map observed = some (b.getLsbD i)

/-! What the host's sequences do, said of the block's own responses. -/

/-- R142, R143: issued one after another from `h`, the commands are each answered OK; the host and its block then stand
at `h'`. -/
def AllSucceed : List Instr → HostState → HostState → Prop
  | [], h, h' => h' = h
  | i :: is, h, h' => ∃ t data, step (h.sending i).block = .next t ∧ t.response = some ⟨0, 0x00, data⟩
      ∧ AllSucceed is { log := h.log ++ [.cmd i], block := t } h'

/-- R149: the first error of a sequence. Some command is answered with the error, every one before it was answered OK,
and `h'` is the host and its block at that answer, with no later command issued. -/
def FirstFailure (is : List Instr) (h h' : HostState) (st : Status) (info : Byte) : Prop :=
  ∃ n i before, is[n]? = some i ∧ AllSucceed (is.take n) h before
    ∧ step (before.sending i).block = .next h'.block ∧ h'.block.response = some ⟨st.code, info, []⟩ ∧ st ≠ .ok
    ∧ h'.log = h.log ++ hostCommands (is.take (n + 1))

/-- The commands that touch the transport behind the gate of R125. -/
def Gated : Instr → Bool
  | .openTransport _ _ => false
  | .closeTransport => false
  | .owReset => true
  | .owWriteBit _ => true
  | .owReadBit => true
  | .owWriteByte _ => true
  | .owReadByte => true
  | .owReadBytes _ => true
  | .crcInit => false
  | .crcByte _ => false
  | .crcRead => false

/-- R62: the opcode map's `match` and `mask` columns; a word `w` selects a row when `w & mask == match`. -/
def opcodeMap : List (Word × Word) :=
  [(0x0100, 0xFFFF), (0x0200, 0xFFFF), (0x1000, 0xFFFF), (0x1100, 0xFFFE), (0x1200, 0xFFFF), (0x1300, 0xFF00),
   (0x1400, 0xFFFF), (0x1500, 0xFF00), (0x2000, 0xFFFF), (0x2100, 0xFF00), (0x2200, 0xFFFF)]

/-- R62, R63: the word matches some row. -/
def MatchesRow (w : Word) : Prop := ∃ row ∈ opcodeMap, w &&& row.2 = row.1

/-- R163: the states in which a command is refused. -/
def Refuses : Instr → State → Bool
  | .openTransport _ timeout, s => s.ctrl == .busy || s.isOpen || decide (timeout ≤ 0)
  | .closeTransport, s => s.ctrl == .busy || !s.isOpen
  | .owReset, s => s.ctrl == .busy
  | .owWriteBit _, s => s.ctrl == .busy
  | .owReadBit, s => s.ctrl == .busy
  | .owWriteByte _, s => s.ctrl == .busy
  | .owReadByte, s => s.ctrl == .busy
  | .owReadBytes _, s => s.ctrl == .busy
  | .crcInit, s => s.ctrl == .busy
  | .crcByte _, s => s.ctrl == .busy
  | .crcRead, s => s.ctrl == .busy

/-- Two states alike but for the transport's pending buffers (R31). -/
def SameButBuffers (s t : State) : Prop := { s with pendingIn := t.pendingIn, pendingOut := t.pendingOut } = t

/-- R161, "raised by": the commands that may report a status. -/
def Reports : Status → Instr → Bool
  | .ok, _ => true
  | .notConnected, i => Gated i
  | .ioError, i => Gated i || i.opc == 0x01
  | .noDevice, i => i == .owReset
  | .shortCircuit, i => i == .owReset
  | .presenceError, i => i == .owReset
  | .protocolError, i => i.opc == 0x13
  | .crcError, _ => false
  | .illegalCommand, _ => false

/-- The primitive events of a command on its success path. -/
structure Traffic where
  tx : Nat
  rx : Nat
  setBaud : Nat
  clear : Nat
deriving DecidableEq, Repr

/-- R48: the width of each command's transport traffic on the success path. -/
def successTraffic : Instr → Traffic
  | .openTransport _ _ => { tx := 0, rx := 0, setBaud := 1, clear := 0 }
  | .closeTransport => { tx := 0, rx := 0, setBaud := 0, clear := 0 }
  | .owReset => { tx := 1, rx := 1, setBaud := 2, clear := 1 }
  | .owWriteBit _ => { tx := 1, rx := 1, setBaud := 0, clear := 1 }
  | .owReadBit => { tx := 1, rx := 1, setBaud := 0, clear := 1 }
  | .owWriteByte _ => { tx := 8, rx := 8, setBaud := 0, clear := 8 }
  | .owReadByte => { tx := 8, rx := 8, setBaud := 0, clear := 8 }
  | .owReadBytes n => { tx := 8 * n.toNat, rx := 8 * n.toNat, setBaud := 0, clear := 8 * n.toNat }
  | .crcInit => { tx := 0, rx := 0, setBaud := 0, clear := 0 }
  | .crcByte _ => { tx := 0, rx := 0, setBaud := 0, clear := 0 }
  | .crcRead => { tx := 0, rx := 0, setBaud := 0, clear := 0 }

/-! Counts of events in a trace (R48). -/

/-- How many `Tx` events. -/
def txCount (tr : List Event) : Nat := tr.countP fun e => match e with | .tx _ _ => true | _ => false
/-- How many `Rx` events. -/
def rxCount (tr : List Event) : Nat := tr.countP fun e => match e with | .rx _ => true | _ => false
/-- How many `SetBaud` events. -/
def setBaudCount (tr : List Event) : Nat := tr.countP fun e => match e with | .setBaud _ => true | _ => false
/-- How many `Clear` events. -/
def clearCount (tr : List Event) : Nat := tr.countP fun e => match e with | .clear => true | _ => false

/-- The traffic a trace holds. -/
def traffic (tr : List Event) : Traffic :=
  { tx := txCount tr, rx := rxCount tr, setBaud := setBaudCount tr, clear := clearCount tr }

end Sys2Proof.Machine
end

