-- ==== Sys2Proof/Certificates/Slice0/Obligations.lean ====
section
/-!
DEFINITION. The statements for the provers. A byte, status or INFO is written as a numeral wherever the rule gives
it as one. `s.slotEcho j b` is what the environment answers to the `j`-th exchange from `s` (Machine/Ops.lean): the
echo, or none where that exchange raises IoError. The pending buffers a command leaves are the environment's own
(R20), and what a finished command leaves in the transient `ACC` and `CNT` has no meaning (R20, R29), so statements say
only that they are some values. `env` and `drawn` are the model's own account of the environment's answers
(notes/assumptions/1.md): a command draws them in order and touches no others.
-/

open Sys2Proof Sys2Proof.Machine

/-! ### Encoding -/

/-- Words written out from R62 and 95_test_vectors.md decode to the command they stand for. -/
def Obligations.SpecExampleWordsDecode : Prop :=
  decode ⟨0x0100#16, [0x70], 1⟩ = .ok (.openTransport [0x70] 1) ∧ decode ⟨0x1000#16, [], 0⟩ = .ok .owReset
    ∧ decode ⟨0x1101#16, [], 0⟩ = .ok (.owWriteBit 1) ∧ decode ⟨0x1333#16, [], 0⟩ = .ok (.owWriteByte 0x33)
    ∧ decode ⟨0x1508#16, [], 0⟩ = .ok (.owReadBytes 8) ∧ decode ⟨0x2128#16, [], 0⟩ = .ok (.crcByte 0x28)
    ∧ decode ⟨0x1102#16, [], 0⟩ = .error .writeBitOperand ∧ decode ⟨0x1001#16, [], 0⟩ = .error .operandNotZero
    ∧ decode ⟨0x1600#16, [], 0⟩ = .error .unassignedOpcode

/-- R60 to R62: no bit of an encoding is dropped: every command, with every operand, is read back whole. -/
def Obligations.DecodeOfEncodeIsIdentity : Prop := ∀ i : Instr, decode (encode i) = .ok i

/-- R62: each word has one meaning: a command that decodes is encoded by that very word. -/
def Obligations.EncodeOfDecodeIsTheWord : Prop :=
  ∀ (r : Request) (i : Instr), decode r = .ok i → (encode i).word = r.word

/-- R62: a word `w` selects a row when `w & mask == match`, and the row's command takes its operand from `OPD`. -/
def Obligations.OpcodeMapSelectsTheCommand : Prop :=
  ∀ r : Request,
    (r.word &&& 0xFFFF = 0x0100 ↔ decode r = .ok (.openTransport r.path r.timeout))
    ∧ (r.word &&& 0xFFFF = 0x0200 ↔ decode r = .ok .closeTransport)
    ∧ (r.word &&& 0xFFFF = 0x1000 ↔ decode r = .ok .owReset)
    ∧ (r.word &&& 0xFFFE = 0x1100 ↔ decode r = .ok (.owWriteBit (r.word.extractLsb' 0 1)))
    ∧ (r.word &&& 0xFFFF = 0x1200 ↔ decode r = .ok .owReadBit)
    ∧ (r.word &&& 0xFF00 = 0x1300 ↔ decode r = .ok (.owWriteByte (r.word.extractLsb' 0 8)))
    ∧ (r.word &&& 0xFFFF = 0x1400 ↔ decode r = .ok .owReadByte)
    ∧ (r.word &&& 0xFF00 = 0x1500 ↔ decode r = .ok (.owReadBytes (r.word.extractLsb' 0 8)))
    ∧ (r.word &&& 0xFFFF = 0x2000 ↔ decode r = .ok .crcInit)
    ∧ (r.word &&& 0xFF00 = 0x2100 ↔ decode r = .ok (.crcByte (r.word.extractLsb' 0 8)))
    ∧ (r.word &&& 0xFFFF = 0x2200 ↔ decode r = .ok .crcRead)

/-- R63: every word is a row's or illegal; which words are illegal; and what presenting one does: status 8, empty data,
no state of the block changed, no primitive, whether the transport is open or not. That one answer of the environment is
drawn meanwhile, for what its pending buffers hold when the command begins, is the model's choice
(notes/assumptions/4.md). -/
def Obligations.IllegalWordsOnlyReportIllegalCommand : Prop :=
  (∀ r : Request, (∃ i, decode r = .ok i) ↔ MatchesRow r.word)
  ∧ (∀ w : Word, ¬ MatchesRow w ↔
    (w.extractLsb' 8 8 ∉ [0x01#8, 0x02#8, 0x10#8, 0x11#8, 0x12#8, 0x13#8, 0x14#8, 0x15#8, 0x20#8, 0x21#8, 0x22#8]
      ∨ (w.extractLsb' 8 8 = 0x11 ∧ w.extractLsb' 1 7 ≠ 0)
      ∨ (w.extractLsb' 8 8 ∈ [0x01#8, 0x02#8, 0x10#8, 0x12#8, 0x14#8, 0x20#8, 0x22#8] ∧ w.extractLsb' 0 8 ≠ 0)))
  ∧ ∀ (s : State) (r : Request) (rest : List Request), s.commands = r :: rest → s.ctrl ≠ .busy →
      ¬ MatchesRow r.word →
      ∃ pin pout, step s = .next { s with
        commands := rest
        ctrl := if s.isOpen then .idle else .closed
        response := some ⟨8, 0x00, []⟩
        trace := []
        pendingIn := pin
        pendingOut := pout
        env := s.env.drop 1
        drawn := s.drawn + 1 }

/-! ### The step -/

/-- R22, R52: when the presented word decodes to a command, the step is that command's execution, once the command
has left the interface. By then the pending buffers hold what the environment's next answer says (R31: a draw;
notes/assumptions/4.md). -/
def Obligations.StepRunsTheDecodedCommand : Prop :=
  ∀ (s : State) (r : Request) (rest : List Request) (i : Instr), s.commands = r :: rest → decode r = .ok i →
    step s = exec i { s with
      commands := rest
      pendingIn := (s.answerAt 0 .between).arrived
      pendingOut := (s.answerAt 0 .between).unsent
      env := s.env.drop 1
      drawn := s.drawn + 1 }

/-- R180: with no command presented the block waits. -/
def Obligations.BlockWaitsForACommand : Prop := ∀ s : State, s.commands = [] → step s = .next s

/-- R27: a command presented while `CTRL = BUSY`, whatever its word, is refused, and the refusal is never
cleared: every run from there ends in it. -/
def Obligations.BusyBlockRefusesForEver : Prop :=
  ∀ (s : State) (r : Request) (rest : List Request), s.commands = r :: rest → s.ctrl = .busy →
    step s = .refused .commandInFlight ∧ ∀ k, core.run (k + 1) s = .refused .commandInFlight

/-- R163: the refusals are exactly these, and none of them gives a response (a refusal holds no state). -/
def Obligations.RefusalsAreExactlyTheListed : Prop :=
  ∀ (i : Instr) (s : State), (∃ r, exec i s = .refused r) ↔
    (s.ctrl = .busy
      ∨ (∃ path timeout, i = .openTransport path timeout ∧ (s.isOpen = true ∨ ¬ 0 < timeout))
      ∨ (i = .closeTransport ∧ s.isOpen = false))

/-- R33, R160, R189: every command that is not refused completes, with exactly one response, a legal one, and
`CTRL` back at rest; no command faults. -/
def Obligations.AdmittedCommandsCompleteWithALegalResponse : Prop :=
  ∀ (i : Instr) (s : State), Refuses i s = false →
    ∃ t r, exec i s = .next t ∧ t.response = some r ∧ r.Legal
      ∧ t.ctrl = if t.isOpen then .idle else .closed

/-- R34: the values the spec gives for power-on reset. -/
def Obligations.ResetLeavesTheBlockClosed : Prop :=
  State.reset.isOpen = false ∧ State.reset.ctrl = .closed ∧ State.reset.crc = 0x00 ∧ State.reset.timeout = none
    ∧ State.reset.response = none ∧ State.reset.openDrainEcho = false

/-- R34, R26: the state after reset is a legal state between commands. That `CNT` is 0 there is the model's choice
(notes/assumptions/3.md). -/
def Obligations.ResetIsLegalBetweenCommands : Prop := State.reset.Inv

/-- R24, R25, R26, R33: every step from a legal state between commands ends in one: at rest, at 115200 baud with a
positive timeout while open, with a legal response. -/
def Obligations.EveryStepKeepsTheBlockLegal : Prop :=
  ∀ s t : State, s.Inv → step s = .next t → t.Inv

/-- R20, R23, R24, R25, R28: each persistent field is written by its own commands and by no other. That CLOSE leaves
`BAUD` and `TIMEOUT`, which lose their meaning with it, as they were is the model's choice (notes/assumptions/2.md). -/
def Obligations.PersistentFieldsChangeOnlyByTheirWriters : Prop :=
  ∀ (i : Instr) (s t : State), exec i s = .next t →
    (t.isOpen ≠ s.isOpen → i = .closeTransport ∨ ∃ path timeout, i = .openTransport path timeout)
    ∧ (t.baud ≠ s.baud → i = .owReset ∨ ∃ path timeout, i = .openTransport path timeout)
    ∧ (t.timeout ≠ s.timeout → ∃ path timeout, i = .openTransport path timeout)
    ∧ (t.crc ≠ s.crc → i = .crcInit ∨ ∃ b, i = .crcByte b)
    ∧ t.openDrainEcho = s.openDrainEcho ∧ t.commands = s.commands

/-- R49, R52: a run's transport trace is its commands' traces in issue order: first the trace of the command at the
head of the interface, executed whole, then what follows from the state it leaves; an illegal word adds nothing. And no
event of an earlier command stands in a command's trace: what a command does, its trace included, does not depend on
the trace before it. -/
def Obligations.RunTracesConcatenateInIssueOrder : Prop :=
  (∀ (s t : State) (r : Request) (rest : List Request) (i : Instr) (k : Nat), s.commands = r :: rest →
    decode r = .ok i →
    exec i { s.lineActs with commands := rest } = .next t →
    runTrace (k + 1) s = t.trace ++ runTrace k t)
  ∧ (∀ (s t : State) (r : Request) (rest : List Request) (k : Nat), s.commands = r :: rest → ¬ MatchesRow r.word →
      step s = .next t → runTrace (k + 1) s = runTrace k t)
  ∧ ∀ (i : Instr) (s : State) (earlier : List Event), exec i { s with trace := earlier } = exec i s

/-! ### The CRC-8 generator -/

/-- R83: CRC_INIT loads the seed `0x00` and never fails; nothing else changes. -/
def Obligations.CrcInitLoadsTheSeed : Prop :=
  (encode .crcInit).word = 0x2000 ∧ ∀ s : State, s.ctrl ≠ .busy →
    exec .crcInit s = .next { s with crc := 0x00, ctrl := if s.isOpen then .idle else .closed,
                                     response := some ⟨0, 0x00, []⟩, trace := [] }

/-- R84: CRC_BYTE feeds one byte and never fails; nothing else changes; and the rule's corner cases. -/
def Obligations.CrcByteFeedsOneByte : Prop :=
  (∀ b : Byte, (encode (.crcByte b)).word = 0x2100 ||| b.setWidth 16)
  ∧ (∀ (b : Byte) (s : State), s.ctrl ≠ .busy →
    exec (.crcByte b) s = .next { s with crc := crcByte s.crc b, ctrl := if s.isOpen then .idle else .closed,
                                         response := some ⟨0, 0x00, []⟩, trace := [] })
  ∧ crcByte 0x00 0x00 = 0x00 ∧ (∀ c, crcByte c c = 0x00) ∧ crcByte 0x00 0x80 = 0x8C ∧ crcByte 0x00 0x01 = 0x5E

/-- R85: CRC_READ returns the register as one data byte, unchanged; straight after reset that is `0x00`; it reads the
same twice; and the CRC_READ that ends the rule's example, CRC8 28 FF 64 1E 04 16 03, returns `0x51`. -/
def Obligations.CrcReadReturnsTheRegister : Prop :=
  (encode .crcRead).word = 0x2200
  ∧ (∀ s : State, s.ctrl ≠ .busy →
    exec .crcRead s = .next { s with ctrl := if s.isOpen then .idle else .closed,
                                     response := some ⟨0, 0x00, [s.crc]⟩, trace := [] })
  ∧ (∃ t, exec .crcRead .reset = .next t ∧ t.response = some ⟨0, 0x00, [0x00]⟩)
  ∧ (∀ s t u : State, exec .crcRead s = .next t → exec .crcRead t = .next u → u.response = t.response)
  ∧ ∀ (s : State) (rest : List Request), s.ctrl ≠ .busy →
      s.commands = (Pseudo.crc8 [0x28, 0xFF, 0x64, 0x1E, 0x04, 0x16, 0x03]).expand.map encode ++ rest →
      ∃ t, core.run 9 s = .next t ∧ t.response = some ⟨0, 0x00, [0x51]⟩

/-- R80: the bit step, as its pseudocode and as its bit equations with `m = c[0] ^ d[0]`. -/
def Obligations.CrcBitStepMeetsItsBitEquations : Prop :=
  ∀ c d : Byte,
    crcBit c d = (if (c ^^^ d) &&& 1 = 1 then (c >>> 1) ^^^ 0x8C else c >>> 1)
    ∧ (crcBit c d).getLsbD 7 = (c.getLsbD 0 ^^ d.getLsbD 0)
    ∧ (crcBit c d).getLsbD 6 = c.getLsbD 7
    ∧ (crcBit c d).getLsbD 5 = c.getLsbD 6
    ∧ (crcBit c d).getLsbD 4 = c.getLsbD 5
    ∧ (crcBit c d).getLsbD 3 = (c.getLsbD 4 ^^ (c.getLsbD 0 ^^ d.getLsbD 0))
    ∧ (crcBit c d).getLsbD 2 = (c.getLsbD 3 ^^ (c.getLsbD 0 ^^ d.getLsbD 0))
    ∧ (crcBit c d).getLsbD 1 = c.getLsbD 2
    ∧ (crcBit c d).getLsbD 0 = c.getLsbD 1

/-- R81: step `i` of the byte step consumes bit `b[i]` and no other bit of `b`. -/
def Obligations.CrcByteStepConsumesBitsLeastFirst : Prop :=
  ∀ c b : Byte, crcByte c b =
    (List.range 8).foldl (fun c i => crcBit c (if b.getLsbD i then 0x01 else 0x00)) c

/-- R87 (b), (c): linearity, and for each register value a bijection on bytes. -/
def Obligations.CrcByteStepIsLinearAndBijective : Prop :=
  (∀ c b : Byte, crcByte c b = crcByte c 0x00 ^^^ crcByte 0x00 b)
  ∧ ∀ c : Byte, Function.Bijective (crcByte c)

/-- R87 (a), (d), (e) and R88: the residue laws over sequences, and CRC-validity. -/
def Obligations.CrcResidueCharacterisesValidity : Prop :=
  crc8 [] = 0x00 ∧ (∀ s : List Byte, crc8 (s ++ [crc8 s]) = 0x00)
  ∧ (∀ (s : List Byte) (b : Byte), crc8 s = b ↔ crc8 (s ++ [b]) = 0x00)
  ∧ ∀ t : List Byte, t ≠ [] → (crcValid t = true ↔ crc8 t = 0x00)

/-- R82: `crc8` is the fold of the byte step from the seed, and the command sequence CRC_INIT, CRC_BYTE for each
byte, CRC_READ, presented to the block, ends in a response holding `crc8` of the bytes. The block asks the environment
nothing; one answer for each command says what the pending buffers hold when it begins (notes/assumptions/4.md). -/
def Obligations.CrcCommandSequenceComputesCrc8 : Prop :=
  (∀ bs : List Byte, crc8 bs = bs.foldl crcByte 0x00)
  ∧ ∀ (s : State) (bs : List Byte) (rest : List Request), s.ctrl ≠ .busy →
      s.commands = encode .crcInit :: (bs.map fun b => encode (.crcByte b)) ++ encode .crcRead :: rest →
      ∃ t, core.run (bs.length + 2) s = .next t ∧ t.response = some ⟨0, 0x00, [crc8 bs]⟩ ∧ t.crc = crc8 bs
        ∧ t.commands = rest ∧ t.isOpen = s.isOpen ∧ t.baud = s.baud ∧ t.timeout = s.timeout
        ∧ t.env = s.env.drop (bs.length + 2) ∧ t.drawn = s.drawn + (bs.length + 2)

/-- R89: CRC commands read and write only `CRC`, never look at `OPEN`, perform no primitive, and are refused in
flight like any other. -/
def Obligations.CrcCommandsAreIndependentOfTheTransceiver : Prop :=
  ∀ i : Instr, (i = .crcInit ∨ (∃ b, i = .crcByte b) ∨ i = .crcRead) →
    (∃ f : Byte → Byte × List Byte, ∀ s : State, s.ctrl ≠ .busy →
      exec i s = .next { s with crc := (f s.crc).1, ctrl := if s.isOpen then .idle else .closed,
                                response := some ⟨0, 0x00, (f s.crc).2⟩, trace := [] })
    ∧ ∀ s : State, s.ctrl = .busy → exec i s = .refused .commandInFlight

/-! ### The bit transceiver -/

/-- R101: the observed bit is 1 exactly when the echo is `0xFF`. -/
def Obligations.OnlyEchoFfIsObservedAsOne : Prop := ∀ e : Byte, observed e = true ↔ e = 0xFF

/-- R125: on a closed transport each command behind the gate reports NOT_CONNECTED (status 1) before any primitive:
its trace is empty, no answer is drawn, nothing else changes. CRC commands do not pass the gate. -/
def Obligations.ClosedTransportReportsNotConnected : Prop :=
  (∀ (i : Instr) (s : State), i = .owReset ∨ (∃ n, i = .owReadBytes n) ∨ (∃ v, i = .owWriteBit v)
      ∨ i = .owReadBit ∨ (∃ b, i = .owWriteByte b) ∨ i = .owReadByte → s.ctrl ≠ .busy → s.isOpen = false →
    exec i s = .next { s with ctrl := .closed, response := some ⟨1, 0x00, []⟩, trace := [] })
  ∧ ∀ (i : Instr) (s : State), i = .crcInit ∨ (∃ b, i = .crcByte b) ∨ i = .crcRead → s.ctrl ≠ .busy →
      s.isOpen = false → ∃ t d, exec i s = .next t ∧ t.response = some ⟨0, 0x00, d⟩

/-- R102: OW_WRITE_BIT v on an open transport: one slot, its observed bit as the one data byte, or IO_ERROR; no echo
comparison; nothing else changes. On a closed one NOT_CONNECTED. The last clause, that with `OPEN_DRAIN_ECHO` a 0 slot
always reports 0, is R102's own inference from R43 and R101, and rests on the open-drain law, which is PRESUMED
(notes/assumptions/7.md). -/
def Obligations.WriteBitReturnsTheObservedBit : Prop :=
  (encode (.owWriteBit 0)).word = 0x1100 ∧ (encode (.owWriteBit 1)).word = 0x1101
  ∧ (∀ (v : BitVec 1) (s : State), s.ctrl ≠ .busy → s.isOpen = true →
    ∃ pin pout, exec (.owWriteBit v) s = .next { s with
      ctrl := .idle
      trace := s.slotTrace 0 (if v = 1 then 0xFF else 0x00)
      env := s.env.drop (s.slotDraws 0 (if v = 1 then 0xFF else 0x00))
      drawn := s.drawn + s.slotDraws 0 (if v = 1 then 0xFF else 0x00)
      pendingIn := pin
      pendingOut := pout
      response := some (match s.slotEcho 0 (if v = 1 then 0xFF else 0x00) with
        | some e => ⟨0, 0x00, [if e = 0xFF then 0x01 else 0x00]⟩
        | none => ⟨2, 0x00, []⟩) })
  ∧ (∀ (v : BitVec 1) (s : State), s.ctrl ≠ .busy → s.isOpen = false →
      exec (.owWriteBit v) s = .next { s with ctrl := .closed, response := some ⟨1, 0x00, []⟩, trace := [] })
  ∧ ∀ (s t : State) (e : Byte), s.isOpen = true → s.openDrainEcho = true → s.slotEcho 0 0x00 = some e →
      exec (.owWriteBit 0) s = .next t → t.response = some ⟨0, 0x00, [0x00]⟩

/-- R103: OW_READ_BIT is one release slot, its observed bit returned; its responses and traces equal OW_WRITE_BIT
1's in every run. -/
def Obligations.ReadBitIsWriteBitOne : Prop :=
  (encode .owReadBit).word = 0x1200
  ∧ (∀ s : State, s.ctrl ≠ .busy → s.isOpen = true →
    ∃ pin pout, exec .owReadBit s = .next { s with
      ctrl := .idle
      trace := s.slotTrace 0 0xFF
      env := s.env.drop (s.slotDraws 0 0xFF)
      drawn := s.drawn + s.slotDraws 0 0xFF
      pendingIn := pin
      pendingOut := pout
      response := some (match s.slotEcho 0 0xFF with
        | some e => ⟨0, 0x00, [if e = 0xFF then 0x01 else 0x00]⟩
        | none => ⟨2, 0x00, []⟩) })
  ∧ (∀ s : State, s.ctrl ≠ .busy → s.isOpen = false →
      exec .owReadBit s = .next { s with ctrl := .closed, response := some ⟨1, 0x00, []⟩, trace := [] })
  ∧ ∀ s : State, exec .owReadBit s = exec (.owWriteBit 1) s

/-- R104, R108: OW_WRITE_BYTE b with every slot echoed: slot `i` sends `0xFF` or `0x00` for `b[i]`, observed bit `i`
becomes bit `i` of the accumulated byte `a`, and only after all eight slots is `a` compared: OK without data if it is
`b`, else PROTOCOL_ERROR (status 6) with INFO = `a`. Nothing else changes. -/
def Obligations.WriteByteComparesAfterEightSlots : Prop :=
  ∀ (b : Byte) (s : State) (e : Nat → Byte), s.ctrl ≠ .busy → s.isOpen = true →
    (∀ i < 8, s.slotEcho i (if b.getLsbD i then 0xFF else 0x00) = some (e i)) →
    ∃ a acc cnt pin pout, (∀ i < 8, a.getLsbD i = decide (e i = 0xFF))
      ∧ exec (.owWriteByte b) s = .next { s with
        ctrl := .idle
        acc := acc
        cnt := cnt
        trace := (List.range 8).flatMap fun i =>
          [.clear, .tx (if b.getLsbD i then 0xFF else 0x00) true, .rx (some (e i))]
        env := s.env.drop 16
        drawn := s.drawn + 16
        pendingIn := pin
        pendingOut := pout
        response := some (if a = b then ⟨0, 0x00, []⟩ else ⟨6, a, []⟩) }

/-- R105, R108: OW_READ_BYTE with every slot echoed: eight release pulses, the assembled byte as the one data byte,
no comparison. Nothing else changes. -/
def Obligations.ReadByteReturnsTheEightObservedBits : Prop :=
  ∀ (s : State) (e : Nat → Byte), s.ctrl ≠ .busy → s.isOpen = true →
    (∀ i < 8, s.slotEcho i 0xFF = some (e i)) →
    ∃ a acc cnt pin pout, (∀ i < 8, a.getLsbD i = decide (e i = 0xFF))
      ∧ exec .owReadByte s = .next { s with
        ctrl := .idle
        acc := acc
        cnt := cnt
        trace := (List.range 8).flatMap fun i => [.clear, .tx 0xFF true, .rx (some (e i))]
        env := s.env.drop 16
        drawn := s.drawn + 16
        pendingIn := pin
        pendingOut := pout
        response := some ⟨0, 0x00, [a]⟩ }

/-- R124, R44: OW_READ_BYTES n with every slot echoed: exactly `8n` release slots and the `n` bytes in the order read,
for every `n` from 0 to 255. Nothing but the transient `ACC` and `CNT` changes besides. -/
def Obligations.ReadBytesReturnsTheBytesInOrder : Prop :=
  ∀ (n : Byte) (s : State) (e : Nat → Byte), s.ctrl ≠ .busy → s.isOpen = true →
    (∀ i < 8 * n.toNat, s.slotEcho i 0xFF = some (e i)) →
    ∃ data acc cnt count pin pout, data.length = n.toNat
      ∧ (∀ k < n.toNat, ∃ b, data[k]? = some b ∧ ∀ i < 8, b.getLsbD i = decide (e (8 * k + i) = 0xFF))
      ∧ exec (.owReadBytes n) s = .next { s with
        ctrl := .idle
        acc := acc
        cnt := cnt
        byteCnt := count
        trace := (List.range (8 * n.toNat)).flatMap fun i => [.clear, .tx 0xFF true, .rx (some (e i))]
        env := s.env.drop (16 * n.toNat)
        drawn := s.drawn + 16 * n.toNat
        pendingIn := pin
        pendingOut := pout
        response := some ⟨0, 0x00, data⟩ }

/-- R106: OW_WRITE_BYTE, OW_READ_BYTE and OW_READ_BYTES stop at the first slot that raises IoError: no later slot is
performed, no data is returned, IO_ERROR (status 2) is reported whatever the earlier echoes were, and no register
but the transient ones changes. -/
def Obligations.ByteCommandsStopAtTheFirstFailedSlot : Prop :=
  ∀ (s : State) (e : Nat → Byte) (j : Nat), s.ctrl ≠ .busy → s.isOpen = true →
    (∀ b : Byte, j < 8 → (∀ i < j, s.slotEcho i (if b.getLsbD i then 0xFF else 0x00) = some (e i)) →
      s.slotEcho j (if b.getLsbD j then 0xFF else 0x00) = none →
      ∃ acc cnt pin pout, exec (.owWriteByte b) s = .next { s with
        ctrl := .idle
        acc := acc
        cnt := cnt
        trace := ((List.range j).flatMap fun i =>
            [.clear, .tx (if b.getLsbD i then 0xFF else 0x00) true, .rx (some (e i))])
          ++ s.slotTrace j (if b.getLsbD j then 0xFF else 0x00)
        env := s.env.drop (2 * j + s.slotDraws j (if b.getLsbD j then 0xFF else 0x00))
        drawn := s.drawn + (2 * j + s.slotDraws j (if b.getLsbD j then 0xFF else 0x00))
        pendingIn := pin
        pendingOut := pout
        response := some ⟨2, 0x00, []⟩ })
    ∧ ((∀ i < j, s.slotEcho i 0xFF = some (e i)) → s.slotEcho j 0xFF = none →
      (j < 8 → ∃ acc cnt pin pout, exec .owReadByte s = .next { s with
        ctrl := .idle
        acc := acc
        cnt := cnt
        trace := ((List.range j).flatMap fun i => [.clear, .tx 0xFF true, .rx (some (e i))]) ++ s.slotTrace j 0xFF
        env := s.env.drop (2 * j + s.slotDraws j 0xFF)
        drawn := s.drawn + (2 * j + s.slotDraws j 0xFF)
        pendingIn := pin
        pendingOut := pout
        response := some ⟨2, 0x00, []⟩ })
      ∧ ∀ n : Byte, j < 8 * n.toNat → ∃ acc cnt count pin pout, exec (.owReadBytes n) s = .next { s with
        ctrl := .idle
        acc := acc
        cnt := cnt
        byteCnt := count
        trace := ((List.range j).flatMap fun i => [.clear, .tx 0xFF true, .rx (some (e i))]) ++ s.slotTrace j 0xFF
        env := s.env.drop (2 * j + s.slotDraws j 0xFF)
        drawn := s.drawn + (2 * j + s.slotDraws j 0xFF)
        pendingIn := pin
        pendingOut := pout
        response := some ⟨2, 0x00, []⟩ })

/-- R104, V-L1-5: a transport that echoes exactly what was sent makes every OW_WRITE_BYTE succeed, with `ACC = b`. That
the transient `ACC` can still be read after the command, where R29 gives it no value, is the model's choice
(notes/assumptions/3.md). -/
def Obligations.PerfectEchoWritesEveryByte : Prop :=
  ∀ (b : Byte) (s : State), s.ctrl ≠ .busy → s.isOpen = true →
    (∀ i < 8, s.slotEcho i (if b.getLsbD i then 0xFF else 0x00) = some (if b.getLsbD i then 0xFF else 0x00)) →
    ∃ t, exec (.owWriteByte b) s = .next t ∧ t.response = some ⟨0, 0x00, []⟩ ∧ t.acc = b

/-- R105: OW_READ_BYTE's trace equals OW_WRITE_BYTE 0xFF's in every run; where the read returns a byte the write
succeeds only if that byte is `0xFF`, and where the read fails the write fails alike. -/
def Obligations.ReadByteTracesLikeWriteFf : Prop :=
  ∀ s : State, s.ctrl ≠ .busy → s.isOpen = true →
    ∃ t u, exec .owReadByte s = .next t ∧ exec (.owWriteByte 0xFF) s = .next u ∧ t.trace = u.trace
      ∧ ((∃ a, t.response = some ⟨0, 0x00, [a]⟩
            ∧ u.response = some (if a = 0xFF then ⟨0, 0x00, []⟩ else ⟨6, a, []⟩))
          ∨ (t.response = some ⟨2, 0x00, []⟩ ∧ u.response = some ⟨2, 0x00, []⟩))

/-- R107: bit commands do not write `BAUD` and perform no SetBaud; the rate they run at is 115200 by the invariant. -/
def Obligations.BitCommandsNeverSetTheBaudRate : Prop :=
  (∀ (i : Instr) (s t : State), (∃ v, i = .owWriteBit v) ∨ i = .owReadBit ∨ (∃ b, i = .owWriteByte b)
      ∨ i = .owReadByte ∨ (∃ n, i = .owReadBytes n) → exec i s = .next t →
    t.baud = s.baud ∧ ∀ r, Event.setBaud r ∉ t.trace)
  ∧ ∀ s : State, s.Inv → s.isOpen = true → s.baud = .b115200

/-- R42: an `Rx` returns one byte, the first that is pending or arrives; a second byte stays pending; it returns none
exactly when there is none; and it appends one event to the trace. -/
def Obligations.ReceiveTakesAtMostOneByte : Prop :=
  ∀ (s : State) (sent : Byte),
    (rx sent s).2 = (s.received sent).head? ∧ (rx sent s).1.pendingIn = (s.received sent).tail
    ∧ ((rx sent s).2 = none ↔ s.pendingIn = [] ∧ (s.answerAt 0 (.rx s.baud s.timeout sent)).arrived = [])
    ∧ (rx sent s).1.trace = s.trace ++ [.rx (rx sent s).2]

/-- R43: with `OPEN_DRAIN_ECHO` an echo `e` of a sent byte `t` satisfies `e & ~t == 0`, a law from general knowledge
that the model takes as PRESUMED (notes/assumptions/7.md); without it any byte, or none, can be the echo of any sent
byte. -/
def Obligations.EchoIsConstrainedOnlyByOpenDrain : Prop :=
  (∀ (s : State) (j : Nat) (t e : Byte), s.openDrainEcho = true → s.slotEcho j t = some e → e &&& ~~~t = 0)
  ∧ ∀ (s : State) (t : Byte) (e : Option Byte), s.openDrainEcho = false →
      ∃ env, State.slotEcho { s with env := env } 0 t = e

/-- R48: the number of each primitive a command performs when it succeeds. -/
def Obligations.SuccessfulCommandsHaveFixedTraffic : Prop :=
  ∀ (i : Instr) (s t : State) (d : List Byte), exec i s = .next t → t.response = some ⟨0, 0x00, d⟩ →
    traffic t.trace = successTraffic i

/-- R189: every command ends after a bounded number of primitives: at most 2040 slots of three events, or the few of
OPEN, CLOSE and OW_RESET; so at most 2040 waits for an echo. -/
def Obligations.EveryCommandPerformsBoundedTraffic : Prop :=
  ∀ (i : Instr) (s t : State), exec i s = .next t → rxCount t.trace ≤ 2040 ∧ t.trace.length ≤ 3 * 2040

/-! ### The bus controller -/

/-- R120: OPEN. Refused while open or with a timeout that is not positive; else the transport's answer decides:
opened, the rate is 115200, the timeout is kept, `OPEN = 1`; not opened, IO_ERROR and the state is as before. `CRC`
is not touched. -/
def Obligations.OpenOpensTheTransportAt115200 : Prop :=
  ∀ (path : Path) (timeout : Duration) (s : State), s.ctrl ≠ .busy →
    (encode (.openTransport path timeout)).word = 0x0100
    ∧ (s.isOpen = true → ∃ r, exec (.openTransport path timeout) s = .refused r)
    ∧ (¬ 0 < timeout → ∃ r, exec (.openTransport path timeout) s = .refused r)
    ∧ (s.isOpen = false → 0 < timeout →
      ((s.answerAt 0 (.topen path)).ok = true → ∃ pin pout,
        exec (.openTransport path timeout) s = .next { s with
          ctrl := .idle
          isOpen := true
          baud := .b115200
          timeout := some timeout
          trace := [.topen path true, .setBaud .b115200]
          env := s.env.drop 1
          drawn := s.drawn + 1
          pendingIn := pin
          pendingOut := pout
          response := some ⟨0, 0x00, []⟩ })
      ∧ ((s.answerAt 0 (.topen path)).ok = false →
        exec (.openTransport path timeout) s = .next { s with
          ctrl := .closed
          trace := [.topen path false]
          env := s.env.drop 1
          drawn := s.drawn + 1
          response := some ⟨2, 0x00, []⟩ }))

/-- R121: CLOSE. Refused while closed; else the trace is Close, `OPEN = 0`, and `CRC` keeps its value. `BAUD` and
`TIMEOUT` lose their meaning, so they are some values; that the model leaves them is notes/assumptions/2.md. -/
def Obligations.CloseClosesTheTransport : Prop :=
  (encode .closeTransport).word = 0x0200 ∧ ∀ s : State, s.ctrl ≠ .busy →
    (s.isOpen = false → ∃ r, exec .closeTransport s = .refused r)
    ∧ (s.isOpen = true → ∃ baud timeout, exec .closeTransport s = .next { s with
        ctrl := .closed, isOpen := false, baud := baud, timeout := timeout, trace := [.tclose],
        response := some ⟨0, 0x00, []⟩ })

/-- R122, R69: the presence classification, row by row, and the size of each class. -/
def Obligations.PresenceEchoFallsInOneClass : Prop :=
  (∀ p : Byte, (p = 0xF0 → classifyPresence p = .noDevice) ∧ (p = 0x00 → classifyPresence p = .shortCircuit)
    ∧ (0x10 ≤ p ∧ p ≤ 0xE0 → classifyPresence p = .present)
    ∧ (p ≠ 0xF0 ∧ p ≠ 0x00 ∧ ¬ (0x10 ≤ p ∧ p ≤ 0xE0) → classifyPresence p = .malformed p))
  ∧ ((List.range 256).countP fun k => classifyPresence (BitVec.ofNat 8 k) == .noDevice) = 1
  ∧ ((List.range 256).countP fun k => classifyPresence (BitVec.ofNat 8 k) == .shortCircuit) = 1
  ∧ ((List.range 256).countP fun k => classifyPresence (BitVec.ofNat 8 k) == .present) = 209
  ∧ ((List.range 256).countP fun k =>
      classifyPresence (BitVec.ofNat 8 k) == .malformed (BitVec.ofNat 8 k)) = 45

/-- R123: OW_RESET on an open transport: 9600 baud, clear, `0xF0`, one echo, 115200 baud again on every path, and then
the verdict: IO_ERROR without an echo, else OK, NO_DEVICE, SHORT_CIRCUIT, or PRESENCE_ERROR with INFO the echo.
Nothing but `BAUD` changes besides. On a closed one NOT_CONNECTED, with `BAUD` untouched. -/
def Obligations.ResetPulseReportsThePresence : Prop :=
  (encode .owReset).word = 0x1000
  ∧ (∀ s : State, s.ctrl ≠ .busy → s.isOpen = true →
    let p : State := { s with baud := .b9600 }
    ∃ pin pout, exec .owReset s = .next { s with
      ctrl := .idle
      baud := .b115200
      trace := .setBaud .b9600 :: (p.slotTrace 0 0xF0 ++ [.setBaud .b115200])
      env := s.env.drop (p.slotDraws 0 0xF0)
      drawn := s.drawn + p.slotDraws 0 0xF0
      pendingIn := pin
      pendingOut := pout
      response := some (match p.slotEcho 0 0xF0 with
        | none => ⟨2, 0x00, []⟩
        | some e =>
          if e = 0xF0 then ⟨3, 0x00, []⟩
          else if e = 0x00 then ⟨4, 0x00, []⟩
          else if 0x10 ≤ e ∧ e ≤ 0xE0 then ⟨0, 0x00, []⟩
          else ⟨5, e, []⟩) })
  ∧ ∀ s : State, s.ctrl ≠ .busy → s.isOpen = false →
      exec .owReset s = .next { s with ctrl := .closed, response := some ⟨1, 0x00, []⟩, trace := [] }

/-- R126: no run of OW_RESET that changed the rate ends with `BAUD = B9600`; the restore is the last primitive. -/
def Obligations.ResetAlwaysRestoresTheBaudRate : Prop :=
  ∀ s t : State, exec .owReset s = .next t →
    (s.isOpen = true → t.baud = .b115200 ∧ t.trace.getLast? = some (.setBaud .b115200))
    ∧ (s.isOpen = false → t.baud = s.baud ∧ t.trace = [])

/-- R31, R183: what lies in the pending buffers before a command is never seen: two states alike but for the buffers
are refused alike, or end alike but for the buffers, with the same response and the same trace. -/
def Obligations.StaleBytesAreNeverObserved : Prop :=
  ∀ (i : Instr) (s s' : State), SameButBuffers s s' →
    (∀ r, exec i s = .refused r → exec i s' = .refused r)
    ∧ ∀ t, exec i s = .next t → ∃ t', exec i s' = .next t' ∧ SameButBuffers t t'
        ∧ t'.response = t.response ∧ t'.trace = t.trace

/-- R162: what an error leaves behind. Whatever a command behind the gate reports on an open transport in a legal
state, the handle stays open at 115200 baud and `CRC` is as before; an OPEN that fails leaves `OPEN = 0`. -/
def Obligations.ErrorsLeaveTheHandleUsable : Prop :=
  (∀ (i : Instr) (s t : State), s.Inv → s.isOpen = true → Gated i = true → exec i s = .next t →
    t.isOpen = true ∧ t.baud = .b115200 ∧ t.timeout = s.timeout ∧ t.crc = s.crc ∧ t.ctrl = .idle)
  ∧ ∀ (path : Path) (timeout : Duration) (s t : State), exec (.openTransport path timeout) s = .next t →
      t.response = some ⟨2, 0x00, []⟩ → t.isOpen = false ∧ t.crc = s.crc

/-- R161: each status is reported only by the commands the table names; CRC_ERROR and ILLEGAL_COMMAND by none. -/
def Obligations.StatusIsReportedOnlyByItsCommands : Prop :=
  ∀ (i : Instr) (s t : State) (r : Response) (st : Status), exec i s = .next t → t.response = some r →
    r.status = st.code → Reports st i = true

/-! ### The host -/

/-- R161, U12: the host reads back every status it may be given, and a reserved code 9 to 15 is a fault. -/
def Obligations.ReservedStatusCodesFault : Prop :=
  (∀ st : Status, Status.ofCode st.code = .ok st)
  ∧ ∀ c : BitVec 4, 9 ≤ c.toNat → Status.ofCode c = .error (.reservedStatus c)

/-- R65: the expansions of the pseudo-instructions. -/
def Obligations.PseudoInstructionsExpand : Prop :=
  (∀ bs, (Pseudo.owWriteBytes bs).expand = bs.map Instr.owWriteByte)
  ∧ (∀ bs, (Pseudo.crc8 bs).expand = [Instr.crcInit] ++ bs.map Instr.crcByte ++ [Instr.crcRead])
  ∧ Pseudo.owRelease.expand = [Instr.owReadBit]

/-- R144: the temperature is the little-endian two's-complement value of bytes 0 and 1, divided by 16, and its
magnitude is at most 2048; and the examples of 95_test_vectors.md V-L1-4 and V-L1-4b. -/
def Obligations.TemperatureIsSignedLittleEndianSixteenths : Prop :=
  (∀ sp : Scratchpad,
    temperature sp = (((sp.tempLow.toNat : Int) + 256 * sp.tempHigh.toNat
      - if 0x80 ≤ sp.tempHigh then 65536 else 0 : Int) : Rat) / 16
    ∧ -2048 ≤ temperature sp ∧ temperature sp ≤ 2048)
  ∧ rawTemperature 0x90 0x01 = 400 ∧ rawTemperature 0x00 0x00 = 0 ∧ rawTemperature 0xFE 0xFF = -2
  ∧ rawTemperature 0xFF 0xFE = -257

/-- R145, R148: the host's CRC check, computed by the block from CRC_INIT on: it goes on exactly when the bytes are
CRC-valid, and otherwise reports CRC_ERROR with no payload. -/
def Obligations.HostCrcCheckGoesOnExactlyWhenValid : Prop :=
  ∀ (α : Type) (t : List Byte) (h : HostState) (k : HostState → HostEnd α), h.block.ctrl ≠ .busy →
    ∃ h', h'.log = h.log ++ hostCommands (Pseudo.crc8 t.dropLast).expand
      ∧ h'.block.crc = crc8 t.dropLast ∧ h'.block.isOpen = h.block.isOpen ∧ h'.block.baud = h.block.baud
      ∧ checkCrc t h k = if crcValid t then k h' else .failed h' .crcError 0x00

/-- R142, R140, R145: READ_ROM ends with a result only if every command of the sequence was issued, in order; the result
is the data of the block's response to OW_READ_BYTES 8, and it is 8 CRC-valid bytes, the 8th being the CRC-8 of the first
7, laid out as a RomCode. -/
def Obligations.ReadRomReturnsOnlyValidatedBytes : Prop :=
  ∀ (h h' : HostState) (rom : List Byte), readRom h = .done h' rom →
    rom.length = 8 ∧ rom[7]? = some (crc8 (rom.take 7)) ∧ crcValid rom = true
    ∧ (∃ read, issueAll [.owReset, .owWriteByte 0x33, .owReadBytes 8] [] h HostEnd.done = .done read rom
        ∧ read.block.response = some ⟨0, 0x00, rom⟩)
    ∧ (∃ code, RomCode.ofBytes rom = some code ∧ rom[0]? = some code.family ∧ (rom.drop 1).take 6 = code.serial
        ∧ rom[7]? = some code.crc)
    ∧ h'.log = h.log ++ hostCommands [.owReset, .owWriteByte 0x33, .owReadBytes 8]
        ++ hostCommands ([.crcInit] ++ (rom.take 7).map Instr.crcByte ++ [.crcRead])

/-- R143, R141, R144, R147: READ_TEMPERATURE ends with a result only after the whole sequence, the conversion wait of
`SETTLE_TIME` included; the bytes are the data of the block's response to OW_READ_BYTES 9, they are a CRC-valid
scratchpad with the temperature's low byte first, and the result is the temperature of it. -/
def Obligations.ReadTemperatureReturnsOnlyValidatedReadings : Prop :=
  ∀ (settle : Duration) (h h' : HostState) (result : Option Rat), readTemperature settle h = .done h' result →
    ∃ bytes sp, bytes.length = 9 ∧ crcValid bytes = true ∧ Scratchpad.ofBytes bytes = some sp
      ∧ bytes[0]? = some sp.tempLow ∧ bytes[1]? = some sp.tempHigh ∧ (bytes.drop 2).take 6 = sp.config
      ∧ bytes[8]? = some sp.crc
      ∧ (∃ converted data read,
          issueAll [.owReset, .owWriteByte 0xCC, .owWriteByte 0x44] [] h HostEnd.done = .done converted data
          ∧ issueAll [.owReset, .owWriteByte 0xCC, .owWriteByte 0xBE, .owReadBytes 9] []
              { converted with log := converted.log ++ [.wait settle] } HostEnd.done = .done read bytes
          ∧ read.block.response = some ⟨0, 0x00, bytes⟩)
      ∧ result = some (temperature sp)
      ∧ h'.log = h.log ++ hostCommands [.owReset, .owWriteByte 0xCC, .owWriteByte 0x44] ++ [.wait settle]
          ++ hostCommands [.owReset, .owWriteByte 0xCC, .owWriteByte 0xBE, .owReadBytes 9]
          ++ hostCommands ([.crcInit] ++ (bytes.take 8).map Instr.crcByte ++ [.crcRead])

/-- R149, R142: READ_ROM reports the first error any of its commands gives, unchanged, and stops: for an error other
than CRC_ERROR, every command of the sequence before some one was answered OK, that one was answered with the error, and
no command was issued after it. -/
def Obligations.ReadRomStopsAtTheFirstError : Prop :=
  ∀ (h h' : HostState) (st : Status) (info : Byte), readRom h = .failed h' st info → st ≠ .crcError →
    FirstFailure [.owReset, .owWriteByte 0x33, .owReadBytes 8] h h' st info

/-- R149, R143, R147: READ_TEMPERATURE reports the first error any of its commands gives, unchanged, and stops: for an
error other than CRC_ERROR, either a command before the wait was the first not answered OK, or all of those were, the
host waited `SETTLE_TIME`, and a command after the wait was the first not answered OK. -/
def Obligations.ReadTemperatureStopsAtTheFirstError : Prop :=
  ∀ (settle : Duration) (h h' : HostState) (st : Status) (info : Byte),
    readTemperature settle h = .failed h' st info → st ≠ .crcError →
    FirstFailure [.owReset, .owWriteByte 0xCC, .owWriteByte 0x44] h h' st info
    ∨ ∃ converted, AllSucceed [.owReset, .owWriteByte 0xCC, .owWriteByte 0x44] h converted
        ∧ converted.log = h.log ++ hostCommands [.owReset, .owWriteByte 0xCC, .owWriteByte 0x44]
        ∧ FirstFailure [.owReset, .owWriteByte 0xCC, .owWriteByte 0xBE, .owReadBytes 9]
            { converted with log := converted.log ++ [.wait settle] } h' st info

/-- R142, V-L1-7: READ_ROM ends. On an open block at rest, with a device that answers the reset, echoes the ROM command
and sends eight bytes, it ends with exactly those bytes if they are CRC-valid, and with CRC_ERROR if not. The numbers say
where in the environment's answers each command's begin: one for the buffers when it begins, two for each exchange
(notes/assumptions/4.md, 1.md). -/
def Obligations.ReadRomReturnsTheBytesADeviceSends : Prop :=
  ∀ (h : HostState) (rom : List Byte), h.block.isOpen = true → h.block.ctrl ≠ .busy → rom.length = 8 →
    (h.block.later 1 .b9600).PresenceAnswered → (h.block.later 4 .b115200).WriteEchoed 0x33 →
    (h.block.later 21 .b115200).ReadSpells rom →
    ∃ h', readRom h = if crcValid rom then .done h' rom else .failed h' .crcError 0x00

/-- R143, R144: READ_TEMPERATURE ends. On an open block at rest, with a device that answers both resets, echoes the four
command bytes and sends nine bytes, it ends with the temperature their first two bytes say, the low byte first, if the
nine are CRC-valid, and with CRC_ERROR if not. The numbers are as in ReadRomReturnsTheBytesADeviceSends. -/
def Obligations.ReadTemperatureReturnsTheTemperatureADeviceSends : Prop :=
  ∀ (settle : Duration) (h : HostState) (bytes : List Byte) (low high : Byte), h.block.isOpen = true →
    h.block.ctrl ≠ .busy → bytes.length = 9 → bytes[0]? = some low → bytes[1]? = some high →
    (h.block.later 1 .b9600).PresenceAnswered → (h.block.later 4 .b115200).WriteEchoed 0xCC →
    (h.block.later 21 .b115200).WriteEchoed 0x44 → (h.block.later 38 .b9600).PresenceAnswered →
    (h.block.later 41 .b115200).WriteEchoed 0xCC → (h.block.later 58 .b115200).WriteEchoed 0xBE →
    (h.block.later 75 .b115200).ReadSpells bytes →
    ∃ h', readTemperature settle h =
      if crcValid bytes then
        .done h' (some ((((low.toNat : Int) + 256 * high.toNat - if 0x80 ≤ high then 65536 else 0 : Int) : Rat) / 16))
      else .failed h' .crcError 0x00

/-- R149, R52: what the host does with the block's response to a command: on OK it goes on with the data; on any other
status it stops and reports that status and INFO unchanged; a refusal of the block ends the sequence. While there is no
response it waits for one, and on a reserved status code it faults (U12). -/
def Obligations.IssueGoesOnAfterOkAndStopsOnAnyError : Prop :=
  ∀ (α : Type) (h : HostState) (k : HostState → List Byte → HostEnd α),
    (∀ (i : Instr) (t : State) (r : Response), step (h.sending i).block = .next t → t.response = some r →
      (r.status = 0 → issue i h k = k ⟨h.log ++ [.cmd i], t⟩ r.data)
      ∧ ∀ st : Status, st ≠ .ok → r.status = st.code → issue i h k = .failed ⟨h.log ++ [.cmd i], t⟩ st r.info)
    ∧ (∀ i r, step (h.sending i).block = .refused r → issue i h k = .refused (h.sending i) r)
    ∧ (h.block.response = none → answer h k = .awaiting h)
    ∧ ∀ r, h.block.response = some r → 9 ≤ r.status.toNat → answer h k = .fault h (.reservedStatus r.status)

/-- R142, R143, R146, R149: an error ends a host operation. A sequence whose commands all succeed goes on, and at the
first command answered with an error it stops with that error, unchanged; so READ_ROM ends at the first error of its
commands, be it the verdict of its OW_RESET, and READ_TEMPERATURE at the first before its wait or, where all those
succeeded, at the first after it. -/
def Obligations.HostOperationsEndWithTheirFirstError : Prop :=
  (∀ (α : Type) (is : List Instr) (data : List Byte) (h h' : HostState) (k : HostState → List Byte → HostEnd α),
    (AllSucceed is h h' → ∃ data', issueAll is data h k = k h' data')
    ∧ ∀ st info, FirstFailure is h h' st info → issueAll is data h k = .failed h' st info)
  ∧ (∀ (h h' : HostState) (st : Status) (info : Byte),
    FirstFailure [.owReset, .owWriteByte 0x33, .owReadBytes 8] h h' st info → readRom h = .failed h' st info)
  ∧ ∀ (settle : Duration) (h h' : HostState) (st : Status) (info : Byte),
    (FirstFailure [.owReset, .owWriteByte 0xCC, .owWriteByte 0x44] h h' st info →
      readTemperature settle h = .failed h' st info)
    ∧ ∀ converted, AllSucceed [.owReset, .owWriteByte 0xCC, .owWriteByte 0x44] h converted →
        FirstFailure [.owReset, .owWriteByte 0xCC, .owWriteByte 0xBE, .owReadBytes 9]
          { converted with log := converted.log ++ [.wait settle] } h' st info →
        readTemperature settle h = .failed h' st info
end

