-- ==== Sys2Proof/Laws/State.lean ====
section
/-!
SUPPORT. One lemma per field of State and per update, true by rfl, so that no proof unfolds a record update.
-/

namespace Sys2Proof.Machine

variable (s : State)

@[simp] theorem lineActs_isOpen : s.lineActs.isOpen = s.isOpen := rfl
@[simp] theorem lineActs_baud : s.lineActs.baud = s.baud := rfl
@[simp] theorem lineActs_timeout : s.lineActs.timeout = s.timeout := rfl
@[simp] theorem lineActs_crc : s.lineActs.crc = s.crc := rfl
@[simp] theorem lineActs_ctrl : s.lineActs.ctrl = s.ctrl := rfl
@[simp] theorem lineActs_acc : s.lineActs.acc = s.acc := rfl
@[simp] theorem lineActs_cnt : s.lineActs.cnt = s.cnt := rfl
@[simp] theorem lineActs_byteCnt : s.lineActs.byteCnt = s.byteCnt := rfl
@[simp] theorem lineActs_pendingIn : s.lineActs.pendingIn = (s.answerAt 0 .between).arrived := rfl
@[simp] theorem lineActs_pendingOut : s.lineActs.pendingOut = (s.answerAt 0 .between).unsent := rfl
@[simp] theorem lineActs_response : s.lineActs.response = s.response := rfl
@[simp] theorem lineActs_trace : s.lineActs.trace = s.trace := rfl
@[simp] theorem lineActs_commands : s.lineActs.commands = s.commands := rfl
@[simp] theorem lineActs_openDrainEcho : s.lineActs.openDrainEcho = s.openDrainEcho := rfl
@[simp] theorem lineActs_env : s.lineActs.env = s.env.tail := rfl
@[simp] theorem lineActs_drawn : s.lineActs.drawn = s.drawn + 1 := rfl

section later
variable (n : Nat) (r : Baud)

@[simp] theorem later_isOpen : (s.later n r).isOpen = s.isOpen := rfl
@[simp] theorem later_baud : (s.later n r).baud = r := rfl
@[simp] theorem later_timeout : (s.later n r).timeout = s.timeout := rfl
@[simp] theorem later_crc : (s.later n r).crc = s.crc := rfl
@[simp] theorem later_ctrl : (s.later n r).ctrl = s.ctrl := rfl
@[simp] theorem later_acc : (s.later n r).acc = s.acc := rfl
@[simp] theorem later_cnt : (s.later n r).cnt = s.cnt := rfl
@[simp] theorem later_byteCnt : (s.later n r).byteCnt = s.byteCnt := rfl
@[simp] theorem later_pendingIn : (s.later n r).pendingIn = s.pendingIn := rfl
@[simp] theorem later_pendingOut : (s.later n r).pendingOut = s.pendingOut := rfl
@[simp] theorem later_response : (s.later n r).response = s.response := rfl
@[simp] theorem later_trace : (s.later n r).trace = s.trace := rfl
@[simp] theorem later_commands : (s.later n r).commands = s.commands := rfl
@[simp] theorem later_openDrainEcho : (s.later n r).openDrainEcho = s.openDrainEcho := rfl
@[simp] theorem later_env : (s.later n r).env = s.env.drop n := rfl
@[simp] theorem later_drawn : (s.later n r).drawn = s.drawn + n := rfl

end later

@[simp] theorem consume_isOpen : s.consume.isOpen = s.isOpen := rfl
@[simp] theorem consume_baud : s.consume.baud = s.baud := rfl
@[simp] theorem consume_timeout : s.consume.timeout = s.timeout := rfl
@[simp] theorem consume_crc : s.consume.crc = s.crc := rfl
@[simp] theorem consume_ctrl : s.consume.ctrl = s.ctrl := rfl
@[simp] theorem consume_acc : s.consume.acc = s.acc := rfl
@[simp] theorem consume_cnt : s.consume.cnt = s.cnt := rfl
@[simp] theorem consume_byteCnt : s.consume.byteCnt = s.byteCnt := rfl
@[simp] theorem consume_pendingIn : s.consume.pendingIn = s.pendingIn := rfl
@[simp] theorem consume_pendingOut : s.consume.pendingOut = s.pendingOut := rfl
@[simp] theorem consume_response : s.consume.response = s.response := rfl
@[simp] theorem consume_trace : s.consume.trace = s.trace := rfl
@[simp] theorem consume_commands : s.consume.commands = s.commands := rfl
@[simp] theorem consume_openDrainEcho : s.consume.openDrainEcho = s.openDrainEcho := rfl
@[simp] theorem consume_env : s.consume.env = s.env.tail := rfl
@[simp] theorem consume_drawn : s.consume.drawn = s.drawn + 1 := rfl

@[simp] theorem emit_isOpen (e : Event) : (s.emit e).isOpen = s.isOpen := rfl
@[simp] theorem emit_baud (e : Event) : (s.emit e).baud = s.baud := rfl
@[simp] theorem emit_timeout (e : Event) : (s.emit e).timeout = s.timeout := rfl
@[simp] theorem emit_crc (e : Event) : (s.emit e).crc = s.crc := rfl
@[simp] theorem emit_ctrl (e : Event) : (s.emit e).ctrl = s.ctrl := rfl
@[simp] theorem emit_acc (e : Event) : (s.emit e).acc = s.acc := rfl
@[simp] theorem emit_cnt (e : Event) : (s.emit e).cnt = s.cnt := rfl
@[simp] theorem emit_byteCnt (e : Event) : (s.emit e).byteCnt = s.byteCnt := rfl
@[simp] theorem emit_pendingIn (e : Event) : (s.emit e).pendingIn = s.pendingIn := rfl
@[simp] theorem emit_pendingOut (e : Event) : (s.emit e).pendingOut = s.pendingOut := rfl
@[simp] theorem emit_response (e : Event) : (s.emit e).response = s.response := rfl
@[simp] theorem emit_trace (e : Event) : (s.emit e).trace = s.trace ++ [e] := rfl
@[simp] theorem emit_commands (e : Event) : (s.emit e).commands = s.commands := rfl
@[simp] theorem emit_openDrainEcho (e : Event) : (s.emit e).openDrainEcho = s.openDrainEcho := rfl
@[simp] theorem emit_env (e : Event) : (s.emit e).env = s.env := rfl
@[simp] theorem emit_drawn (e : Event) : (s.emit e).drawn = s.drawn := rfl

@[simp] theorem setBaud_isOpen (r : Baud) : (setBaud r s).isOpen = s.isOpen := rfl
@[simp] theorem setBaud_baud (r : Baud) : (setBaud r s).baud = r := rfl
@[simp] theorem setBaud_timeout (r : Baud) : (setBaud r s).timeout = s.timeout := rfl
@[simp] theorem setBaud_crc (r : Baud) : (setBaud r s).crc = s.crc := rfl
@[simp] theorem setBaud_ctrl (r : Baud) : (setBaud r s).ctrl = s.ctrl := rfl
@[simp] theorem setBaud_acc (r : Baud) : (setBaud r s).acc = s.acc := rfl
@[simp] theorem setBaud_cnt (r : Baud) : (setBaud r s).cnt = s.cnt := rfl
@[simp] theorem setBaud_byteCnt (r : Baud) : (setBaud r s).byteCnt = s.byteCnt := rfl
@[simp] theorem setBaud_pendingIn (r : Baud) : (setBaud r s).pendingIn = s.pendingIn := rfl
@[simp] theorem setBaud_pendingOut (r : Baud) : (setBaud r s).pendingOut = s.pendingOut := rfl
@[simp] theorem setBaud_response (r : Baud) : (setBaud r s).response = s.response := rfl
@[simp] theorem setBaud_trace (r : Baud) : (setBaud r s).trace = s.trace ++ [.setBaud r] := rfl
@[simp] theorem setBaud_commands (r : Baud) : (setBaud r s).commands = s.commands := rfl
@[simp] theorem setBaud_openDrainEcho (r : Baud) : (setBaud r s).openDrainEcho = s.openDrainEcho := rfl
@[simp] theorem setBaud_env (r : Baud) : (setBaud r s).env = s.env := rfl
@[simp] theorem setBaud_drawn (r : Baud) : (setBaud r s).drawn = s.drawn := rfl

@[simp] theorem clearBuffers_isOpen : (clearBuffers s).isOpen = s.isOpen := rfl
@[simp] theorem clearBuffers_baud : (clearBuffers s).baud = s.baud := rfl
@[simp] theorem clearBuffers_timeout : (clearBuffers s).timeout = s.timeout := rfl
@[simp] theorem clearBuffers_crc : (clearBuffers s).crc = s.crc := rfl
@[simp] theorem clearBuffers_ctrl : (clearBuffers s).ctrl = s.ctrl := rfl
@[simp] theorem clearBuffers_acc : (clearBuffers s).acc = s.acc := rfl
@[simp] theorem clearBuffers_cnt : (clearBuffers s).cnt = s.cnt := rfl
@[simp] theorem clearBuffers_byteCnt : (clearBuffers s).byteCnt = s.byteCnt := rfl
@[simp] theorem clearBuffers_pendingIn : (clearBuffers s).pendingIn = [] := rfl
@[simp] theorem clearBuffers_pendingOut : (clearBuffers s).pendingOut = [] := rfl
@[simp] theorem clearBuffers_response : (clearBuffers s).response = s.response := rfl
@[simp] theorem clearBuffers_trace : (clearBuffers s).trace = s.trace ++ [.clear] := rfl
@[simp] theorem clearBuffers_commands : (clearBuffers s).commands = s.commands := rfl
@[simp] theorem clearBuffers_openDrainEcho : (clearBuffers s).openDrainEcho = s.openDrainEcho := rfl
@[simp] theorem clearBuffers_env : (clearBuffers s).env = s.env := rfl
@[simp] theorem clearBuffers_drawn : (clearBuffers s).drawn = s.drawn := rfl

@[simp] theorem tClose_isOpen : (tClose s).isOpen = s.isOpen := rfl
@[simp] theorem tClose_baud : (tClose s).baud = s.baud := rfl
@[simp] theorem tClose_timeout : (tClose s).timeout = s.timeout := rfl
@[simp] theorem tClose_crc : (tClose s).crc = s.crc := rfl
@[simp] theorem tClose_ctrl : (tClose s).ctrl = s.ctrl := rfl
@[simp] theorem tClose_acc : (tClose s).acc = s.acc := rfl
@[simp] theorem tClose_cnt : (tClose s).cnt = s.cnt := rfl
@[simp] theorem tClose_byteCnt : (tClose s).byteCnt = s.byteCnt := rfl
@[simp] theorem tClose_pendingIn : (tClose s).pendingIn = s.pendingIn := rfl
@[simp] theorem tClose_pendingOut : (tClose s).pendingOut = s.pendingOut := rfl
@[simp] theorem tClose_response : (tClose s).response = s.response := rfl
@[simp] theorem tClose_trace : (tClose s).trace = s.trace ++ [.tclose] := rfl
@[simp] theorem tClose_commands : (tClose s).commands = s.commands := rfl
@[simp] theorem tClose_openDrainEcho : (tClose s).openDrainEcho = s.openDrainEcho := rfl
@[simp] theorem tClose_env : (tClose s).env = s.env := rfl
@[simp] theorem tClose_drawn : (tClose s).drawn = s.drawn := rfl

@[simp] theorem beginCommand_isOpen : s.beginCommand.isOpen = s.isOpen := rfl
@[simp] theorem beginCommand_baud : s.beginCommand.baud = s.baud := rfl
@[simp] theorem beginCommand_timeout : s.beginCommand.timeout = s.timeout := rfl
@[simp] theorem beginCommand_crc : s.beginCommand.crc = s.crc := rfl
@[simp] theorem beginCommand_ctrl : s.beginCommand.ctrl = .busy := rfl
@[simp] theorem beginCommand_acc : s.beginCommand.acc = s.acc := rfl
@[simp] theorem beginCommand_cnt : s.beginCommand.cnt = s.cnt := rfl
@[simp] theorem beginCommand_byteCnt : s.beginCommand.byteCnt = s.byteCnt := rfl
@[simp] theorem beginCommand_pendingIn : s.beginCommand.pendingIn = s.pendingIn := rfl
@[simp] theorem beginCommand_pendingOut : s.beginCommand.pendingOut = s.pendingOut := rfl
@[simp] theorem beginCommand_response : s.beginCommand.response = s.response := rfl
@[simp] theorem beginCommand_trace : s.beginCommand.trace = [] := rfl
@[simp] theorem beginCommand_commands : s.beginCommand.commands = s.commands := rfl
@[simp] theorem beginCommand_openDrainEcho : s.beginCommand.openDrainEcho = s.openDrainEcho := rfl
@[simp] theorem beginCommand_env : s.beginCommand.env = s.env := rfl
@[simp] theorem beginCommand_drawn : s.beginCommand.drawn = s.drawn := rfl

@[simp] theorem endCommand_isOpen (r : Response) : (s.endCommand r).isOpen = s.isOpen := rfl
@[simp] theorem endCommand_baud (r : Response) : (s.endCommand r).baud = s.baud := rfl
@[simp] theorem endCommand_timeout (r : Response) : (s.endCommand r).timeout = s.timeout := rfl
@[simp] theorem endCommand_crc (r : Response) : (s.endCommand r).crc = s.crc := rfl
@[simp] theorem endCommand_ctrl (r : Response) : (s.endCommand r).ctrl = (if s.isOpen then .idle else .closed) := rfl
@[simp] theorem endCommand_acc (r : Response) : (s.endCommand r).acc = s.acc := rfl
@[simp] theorem endCommand_cnt (r : Response) : (s.endCommand r).cnt = s.cnt := rfl
@[simp] theorem endCommand_byteCnt (r : Response) : (s.endCommand r).byteCnt = s.byteCnt := rfl
@[simp] theorem endCommand_pendingIn (r : Response) : (s.endCommand r).pendingIn = s.pendingIn := rfl
@[simp] theorem endCommand_pendingOut (r : Response) : (s.endCommand r).pendingOut = s.pendingOut := rfl
@[simp] theorem endCommand_response (r : Response) : (s.endCommand r).response = some r := rfl
@[simp] theorem endCommand_trace (r : Response) : (s.endCommand r).trace = s.trace := rfl
@[simp] theorem endCommand_commands (r : Response) : (s.endCommand r).commands = s.commands := rfl
@[simp] theorem endCommand_openDrainEcho (r : Response) : (s.endCommand r).openDrainEcho = s.openDrainEcho := rfl
@[simp] theorem endCommand_env (r : Response) : (s.endCommand r).env = s.env := rfl
@[simp] theorem endCommand_drawn (r : Response) : (s.endCommand r).drawn = s.drawn := rfl

@[simp] theorem raiseError_isOpen (e : BlockError) : (s.raiseError e).isOpen = s.isOpen := rfl
@[simp] theorem raiseError_baud (e : BlockError) : (s.raiseError e).baud = s.baud := rfl
@[simp] theorem raiseError_timeout (e : BlockError) : (s.raiseError e).timeout = s.timeout := rfl
@[simp] theorem raiseError_crc (e : BlockError) : (s.raiseError e).crc = s.crc := rfl
@[simp] theorem raiseError_ctrl (e : BlockError) : (s.raiseError e).ctrl = (if s.isOpen then .idle else .closed) := rfl
@[simp] theorem raiseError_acc (e : BlockError) : (s.raiseError e).acc = s.acc := rfl
@[simp] theorem raiseError_cnt (e : BlockError) : (s.raiseError e).cnt = s.cnt := rfl
@[simp] theorem raiseError_byteCnt (e : BlockError) : (s.raiseError e).byteCnt = s.byteCnt := rfl
@[simp] theorem raiseError_pendingIn (e : BlockError) : (s.raiseError e).pendingIn = s.pendingIn := rfl
@[simp] theorem raiseError_pendingOut (e : BlockError) : (s.raiseError e).pendingOut = s.pendingOut := rfl
@[simp] theorem raiseError_response (e : BlockError) : (s.raiseError e).response = some (Response.failure e) := rfl
@[simp] theorem raiseError_trace (e : BlockError) : (s.raiseError e).trace = s.trace := rfl
@[simp] theorem raiseError_commands (e : BlockError) : (s.raiseError e).commands = s.commands := rfl
@[simp] theorem raiseError_openDrainEcho (e : BlockError) : (s.raiseError e).openDrainEcho = s.openDrainEcho := rfl
@[simp] theorem raiseError_env (e : BlockError) : (s.raiseError e).env = s.env := rfl
@[simp] theorem raiseError_drawn (e : BlockError) : (s.raiseError e).drawn = s.drawn := rfl

@[simp] theorem returnData_isOpen (d : List Byte) : (s.returnData d).isOpen = s.isOpen := rfl
@[simp] theorem returnData_baud (d : List Byte) : (s.returnData d).baud = s.baud := rfl
@[simp] theorem returnData_timeout (d : List Byte) : (s.returnData d).timeout = s.timeout := rfl
@[simp] theorem returnData_crc (d : List Byte) : (s.returnData d).crc = s.crc := rfl
@[simp] theorem returnData_ctrl (d : List Byte) : (s.returnData d).ctrl = (if s.isOpen then .idle else .closed) := rfl
@[simp] theorem returnData_acc (d : List Byte) : (s.returnData d).acc = s.acc := rfl
@[simp] theorem returnData_cnt (d : List Byte) : (s.returnData d).cnt = s.cnt := rfl
@[simp] theorem returnData_byteCnt (d : List Byte) : (s.returnData d).byteCnt = s.byteCnt := rfl
@[simp] theorem returnData_pendingIn (d : List Byte) : (s.returnData d).pendingIn = s.pendingIn := rfl
@[simp] theorem returnData_pendingOut (d : List Byte) : (s.returnData d).pendingOut = s.pendingOut := rfl
@[simp] theorem returnData_response (d : List Byte) : (s.returnData d).response = some (Response.success d) := rfl
@[simp] theorem returnData_trace (d : List Byte) : (s.returnData d).trace = s.trace := rfl
@[simp] theorem returnData_commands (d : List Byte) : (s.returnData d).commands = s.commands := rfl
@[simp] theorem returnData_openDrainEcho (d : List Byte) : (s.returnData d).openDrainEcho = s.openDrainEcho := rfl
@[simp] theorem returnData_env (d : List Byte) : (s.returnData d).env = s.env := rfl
@[simp] theorem returnData_drawn (d : List Byte) : (s.returnData d).drawn = s.drawn := rfl

@[simp] theorem record_isOpen (v : Bool) : (s.record v).isOpen = s.isOpen := rfl
@[simp] theorem record_baud (v : Bool) : (s.record v).baud = s.baud := rfl
@[simp] theorem record_timeout (v : Bool) : (s.record v).timeout = s.timeout := rfl
@[simp] theorem record_crc (v : Bool) : (s.record v).crc = s.crc := rfl
@[simp] theorem record_ctrl (v : Bool) : (s.record v).ctrl = s.ctrl := rfl
@[simp] theorem record_acc (v : Bool) : (s.record v).acc = setBit s.acc s.cnt v := rfl
@[simp] theorem record_cnt (v : Bool) : (s.record v).cnt = s.cnt + 1 := rfl
@[simp] theorem record_byteCnt (v : Bool) : (s.record v).byteCnt = s.byteCnt := rfl
@[simp] theorem record_pendingIn (v : Bool) : (s.record v).pendingIn = s.pendingIn := rfl
@[simp] theorem record_pendingOut (v : Bool) : (s.record v).pendingOut = s.pendingOut := rfl
@[simp] theorem record_response (v : Bool) : (s.record v).response = s.response := rfl
@[simp] theorem record_trace (v : Bool) : (s.record v).trace = s.trace := rfl
@[simp] theorem record_commands (v : Bool) : (s.record v).commands = s.commands := rfl
@[simp] theorem record_openDrainEcho (v : Bool) : (s.record v).openDrainEcho = s.openDrainEcho := rfl
@[simp] theorem record_env (v : Bool) : (s.record v).env = s.env := rfl
@[simp] theorem record_drawn (v : Bool) : (s.record v).drawn = s.drawn := rfl

@[simp] theorem startByte_isOpen : s.startByte.isOpen = s.isOpen := rfl
@[simp] theorem startByte_baud : s.startByte.baud = s.baud := rfl
@[simp] theorem startByte_timeout : s.startByte.timeout = s.timeout := rfl
@[simp] theorem startByte_crc : s.startByte.crc = s.crc := rfl
@[simp] theorem startByte_ctrl : s.startByte.ctrl = s.ctrl := rfl
@[simp] theorem startByte_acc : s.startByte.acc = 0x00 := rfl
@[simp] theorem startByte_cnt : s.startByte.cnt = 0 := rfl
@[simp] theorem startByte_byteCnt : s.startByte.byteCnt = s.byteCnt := rfl
@[simp] theorem startByte_pendingIn : s.startByte.pendingIn = s.pendingIn := rfl
@[simp] theorem startByte_pendingOut : s.startByte.pendingOut = s.pendingOut := rfl
@[simp] theorem startByte_response : s.startByte.response = s.response := rfl
@[simp] theorem startByte_trace : s.startByte.trace = s.trace := rfl
@[simp] theorem startByte_commands : s.startByte.commands = s.commands := rfl
@[simp] theorem startByte_openDrainEcho : s.startByte.openDrainEcho = s.openDrainEcho := rfl
@[simp] theorem startByte_env : s.startByte.env = s.env := rfl
@[simp] theorem startByte_drawn : s.startByte.drawn = s.drawn := rfl

@[simp] theorem takeCommand_isOpen : s.takeCommand.isOpen = s.isOpen := rfl
@[simp] theorem takeCommand_baud : s.takeCommand.baud = s.baud := rfl
@[simp] theorem takeCommand_timeout : s.takeCommand.timeout = s.timeout := rfl
@[simp] theorem takeCommand_crc : s.takeCommand.crc = s.crc := rfl
@[simp] theorem takeCommand_ctrl : s.takeCommand.ctrl = s.ctrl := rfl
@[simp] theorem takeCommand_acc : s.takeCommand.acc = s.acc := rfl
@[simp] theorem takeCommand_cnt : s.takeCommand.cnt = s.cnt := rfl
@[simp] theorem takeCommand_byteCnt : s.takeCommand.byteCnt = s.byteCnt := rfl
@[simp] theorem takeCommand_pendingIn : s.takeCommand.pendingIn = s.pendingIn := rfl
@[simp] theorem takeCommand_pendingOut : s.takeCommand.pendingOut = s.pendingOut := rfl
@[simp] theorem takeCommand_response : s.takeCommand.response = s.response := rfl
@[simp] theorem takeCommand_trace : s.takeCommand.trace = s.trace := rfl
@[simp] theorem takeCommand_commands : s.takeCommand.commands = s.commands.tail := rfl
@[simp] theorem takeCommand_openDrainEcho : s.takeCommand.openDrainEcho = s.openDrainEcho := rfl
@[simp] theorem takeCommand_env : s.takeCommand.env = s.env := rfl
@[simp] theorem takeCommand_drawn : s.takeCommand.drawn = s.drawn := rfl

@[simp] theorem present_isOpen (q : Request) : (s.present q).isOpen = s.isOpen := rfl
@[simp] theorem present_baud (q : Request) : (s.present q).baud = s.baud := rfl
@[simp] theorem present_timeout (q : Request) : (s.present q).timeout = s.timeout := rfl
@[simp] theorem present_crc (q : Request) : (s.present q).crc = s.crc := rfl
@[simp] theorem present_ctrl (q : Request) : (s.present q).ctrl = s.ctrl := rfl
@[simp] theorem present_acc (q : Request) : (s.present q).acc = s.acc := rfl
@[simp] theorem present_cnt (q : Request) : (s.present q).cnt = s.cnt := rfl
@[simp] theorem present_byteCnt (q : Request) : (s.present q).byteCnt = s.byteCnt := rfl
@[simp] theorem present_pendingIn (q : Request) : (s.present q).pendingIn = s.pendingIn := rfl
@[simp] theorem present_pendingOut (q : Request) : (s.present q).pendingOut = s.pendingOut := rfl
@[simp] theorem present_response (q : Request) : (s.present q).response = s.response := rfl
@[simp] theorem present_trace (q : Request) : (s.present q).trace = s.trace := rfl
@[simp] theorem present_commands (q : Request) : (s.present q).commands = q :: s.commands := rfl
@[simp] theorem present_openDrainEcho (q : Request) : (s.present q).openDrainEcho = s.openDrainEcho := rfl
@[simp] theorem present_env (q : Request) : (s.present q).env = s.env := rfl
@[simp] theorem present_drawn (q : Request) : (s.present q).drawn = s.drawn := rfl

@[simp] theorem startBytes_isOpen : s.startBytes.isOpen = s.isOpen := rfl
@[simp] theorem startBytes_baud : s.startBytes.baud = s.baud := rfl
@[simp] theorem startBytes_timeout : s.startBytes.timeout = s.timeout := rfl
@[simp] theorem startBytes_crc : s.startBytes.crc = s.crc := rfl
@[simp] theorem startBytes_ctrl : s.startBytes.ctrl = s.ctrl := rfl
@[simp] theorem startBytes_acc : s.startBytes.acc = s.acc := rfl
@[simp] theorem startBytes_cnt : s.startBytes.cnt = s.cnt := rfl
@[simp] theorem startBytes_byteCnt : s.startBytes.byteCnt = 0 := rfl
@[simp] theorem startBytes_pendingIn : s.startBytes.pendingIn = s.pendingIn := rfl
@[simp] theorem startBytes_pendingOut : s.startBytes.pendingOut = s.pendingOut := rfl
@[simp] theorem startBytes_response : s.startBytes.response = s.response := rfl
@[simp] theorem startBytes_trace : s.startBytes.trace = s.trace := rfl
@[simp] theorem startBytes_commands : s.startBytes.commands = s.commands := rfl
@[simp] theorem startBytes_openDrainEcho : s.startBytes.openDrainEcho = s.openDrainEcho := rfl
@[simp] theorem startBytes_env : s.startBytes.env = s.env := rfl
@[simp] theorem startBytes_drawn : s.startBytes.drawn = s.drawn := rfl

@[simp] theorem countByte_isOpen : s.countByte.isOpen = s.isOpen := rfl
@[simp] theorem countByte_baud : s.countByte.baud = s.baud := rfl
@[simp] theorem countByte_timeout : s.countByte.timeout = s.timeout := rfl
@[simp] theorem countByte_crc : s.countByte.crc = s.crc := rfl
@[simp] theorem countByte_ctrl : s.countByte.ctrl = s.ctrl := rfl
@[simp] theorem countByte_acc : s.countByte.acc = s.acc := rfl
@[simp] theorem countByte_cnt : s.countByte.cnt = s.cnt := rfl
@[simp] theorem countByte_byteCnt : s.countByte.byteCnt = s.byteCnt + 1 := rfl
@[simp] theorem countByte_pendingIn : s.countByte.pendingIn = s.pendingIn := rfl
@[simp] theorem countByte_pendingOut : s.countByte.pendingOut = s.pendingOut := rfl
@[simp] theorem countByte_response : s.countByte.response = s.response := rfl
@[simp] theorem countByte_trace : s.countByte.trace = s.trace := rfl
@[simp] theorem countByte_commands : s.countByte.commands = s.commands := rfl
@[simp] theorem countByte_openDrainEcho : s.countByte.openDrainEcho = s.openDrainEcho := rfl
@[simp] theorem countByte_env : s.countByte.env = s.env := rfl
@[simp] theorem countByte_drawn : s.countByte.drawn = s.drawn := rfl

end Sys2Proof.Machine
end

