-- ==== Sys2Proof/Laws/Ops.lean ====
section
/-!
SUPPORT. What the shared operations of Machine/Ops.lean can do, said once: drawing answers, one exchange of a byte,
and the frame of a command.
-/

namespace Sys2Proof.Machine

/-- The state after `n` answers have been drawn and the events `tr` have happened, with the pending buffers left at
`pin` and `pout`; everything else as in `s`. -/
def State.advance (s : State) (n : Nat) (tr : List Event) (pin pout : List Byte) : State :=
  { s with env := s.env.drop n, drawn := s.drawn + n, trace := s.trace ++ tr, pendingIn := pin, pendingOut := pout }

section advance
variable (s : State) (n : Nat) (tr : List Event) (pin pout : List Byte)

@[simp] theorem advance_isOpen : (s.advance n tr pin pout).isOpen = s.isOpen := rfl
@[simp] theorem advance_baud : (s.advance n tr pin pout).baud = s.baud := rfl
@[simp] theorem advance_timeout : (s.advance n tr pin pout).timeout = s.timeout := rfl
@[simp] theorem advance_crc : (s.advance n tr pin pout).crc = s.crc := rfl
@[simp] theorem advance_ctrl : (s.advance n tr pin pout).ctrl = s.ctrl := rfl
@[simp] theorem advance_acc : (s.advance n tr pin pout).acc = s.acc := rfl
@[simp] theorem advance_cnt : (s.advance n tr pin pout).cnt = s.cnt := rfl
@[simp] theorem advance_byteCnt : (s.advance n tr pin pout).byteCnt = s.byteCnt := rfl
@[simp] theorem advance_response : (s.advance n tr pin pout).response = s.response := rfl
@[simp] theorem advance_commands : (s.advance n tr pin pout).commands = s.commands := rfl
@[simp] theorem advance_openDrainEcho : (s.advance n tr pin pout).openDrainEcho = s.openDrainEcho := rfl
@[simp] theorem advance_trace : (s.advance n tr pin pout).trace = s.trace ++ tr := rfl
@[simp] theorem advance_env : (s.advance n tr pin pout).env = s.env.drop n := rfl
@[simp] theorem advance_drawn : (s.advance n tr pin pout).drawn = s.drawn + n := rfl

theorem advance_advance (m : Nat) (tr' : List Event) (pin' pout' : List Byte) :
    (s.advance n tr pin pout).advance m tr' pin' pout' = s.advance (n + m) (tr ++ tr') pin' pout' := by
  simp [State.advance, Nat.add_assoc, List.drop_drop]

theorem advance_zero : s.advance 0 [] s.pendingIn s.pendingOut = s := by
  simp [State.advance]

/-- The answers to come are those of `s`, `n` later. -/
@[simp] theorem advance_answerAt (k : Nat) (ask : Ask) :
    (s.advance n tr pin pout).answerAt k ask = s.answerAt (n + k) ask := by
  simp [State.answerAt, Nat.add_assoc, List.getElem?_drop]

end advance

/-- An answer depends on the state's answers to come alone. -/
theorem answerAt_congr {s t : State} (he : t.env = s.env) (hd : t.drawn = s.drawn) (k : Nat) (ask : Ask) :
    t.answerAt k ask = s.answerAt k ask := by
  simp [State.answerAt, he, hd]

/-- What an exchange of a state meets depends on these five fields alone. -/
theorem slot_congr {s t : State} (he : t.env = s.env) (hd : t.drawn = s.drawn) (hb : t.baud = s.baud)
    (ht : t.timeout = s.timeout) (ho : t.openDrainEcho = s.openDrainEcho) (j : Nat) (sent : Byte) :
    t.slotEcho j sent = s.slotEcho j sent ∧ t.slotTrace j sent = s.slotTrace j sent
      ∧ t.slotDraws j sent = s.slotDraws j sent := by
  have h1 : t.slotSent j sent = s.slotSent j sent := by simp [State.slotSent, answerAt_congr he hd, hb]
  have h2 : t.slotHeard j sent = s.slotHeard j sent := by simp [State.slotHeard, answerAt_congr he hd, hb, ht, ho]
  simp [State.slotEcho, State.slotTrace, State.slotDraws, h1, h2]

/-- After `j` complete exchanges, the exchanges to come are those of `s`, `j` later. -/
theorem advance_slot (s : State) (j k : Nat) (tr : List Event) (pin pout : List Byte) (sent : Byte) :
    (s.advance (2 * j) tr pin pout).slotEcho k sent = s.slotEcho (j + k) sent
      ∧ (s.advance (2 * j) tr pin pout).slotTrace k sent = s.slotTrace (j + k) sent
      ∧ (s.advance (2 * j) tr pin pout).slotDraws k sent = s.slotDraws (j + k) sent := by
  have h1 : (s.advance (2 * j) tr pin pout).slotSent k sent = s.slotSent (j + k) sent := by
    simp [State.slotSent, Nat.mul_add]
  have h2 : (s.advance (2 * j) tr pin pout).slotHeard k sent = s.slotHeard (j + k) sent := by
    simp [State.slotHeard, Nat.mul_add, Nat.add_assoc]
  simp [State.slotEcho, State.slotTrace, State.slotDraws, h1, h2]

/-- A slot that gives an echo has drawn two answers, and its trace is Clear, Tx, Rx (R100). -/
theorem slot_of_echo {s : State} {j : Nat} {sent e : Byte} (h : s.slotEcho j sent = some e) :
    s.slotTrace j sent = [.clear, .tx sent true, .rx (some e)] ∧ s.slotDraws j sent = 2 := by
  unfold State.slotEcho at h
  split at h
  · rename_i hs
    simp [State.slotTrace, State.slotDraws, hs, h]
  · simp at h

/-- The exchange's state where the `Tx` succeeds. -/
theorem exchange_sent {sent : Byte} {s : State} (h : s.slotSent 0 sent = true) : ∃ pin pout,
    exchange sent s = match s.slotHeard 0 sent with
      | some e => .ret (s.advance 2 [.clear, .tx sent true, .rx (some e)] pin pout) e
      | none => .raise (s.advance 2 [.clear, .tx sent true, .rx none] pin pout) .io := by
  have hok : ((clearBuffers s).answerAt 0 (.tx s.baud sent)).ok = true := h
  have hrx : (tx sent (clearBuffers s)).1.received sent =
      (s.answerAt 1 (.rx s.baud s.timeout sent)).arrived.map (lineByte s.openDrainEcho sent) := by
    simp [State.received, tx, State.answerAt]
  have hh : ((tx sent (clearBuffers s)).1.received sent).head? = s.slotHeard 0 sent := by
    rw [hrx]; rfl
  refine ⟨((tx sent (clearBuffers s)).1.received sent).tail, (rx sent (tx sent (clearBuffers s)).1).1.pendingOut, ?_⟩
  have h2 : (tx sent (clearBuffers s)).2 = true := h
  simp only [exchange, h2, if_true]
  have h3 : (rx sent (tx sent (clearBuffers s)).1).2 = s.slotHeard 0 sent := hh
  have h4 : (rx sent (tx sent (clearBuffers s)).1).1 = s.advance 2 [.clear, .tx sent true, .rx (s.slotHeard 0 sent)]
      ((tx sent (clearBuffers s)).1.received sent).tail
      (rx sent (tx sent (clearBuffers s)).1).1.pendingOut := by
    simp only [rx, hh]
    simp [tx, State.advance, State.emit, State.consume, clearBuffers] at hok ⊢
    have hd : s.env.tail.tail = s.env.drop 2 := by cases s.env with | nil => rfl | cons _ l => cases l <;> rfl
    simp [hok, hd]
  rw [h3, h4]
  cases s.slotHeard 0 sent <;> rfl

/-- The exchange's state where the `Tx` fails. -/
theorem exchange_unsent {sent : Byte} {s : State} (h : s.slotSent 0 sent = false) : ∃ pout,
    exchange sent s = .raise (s.advance 1 [.clear, .tx sent false] [] pout) .io := by
  have hok : ((clearBuffers s).answerAt 0 (.tx s.baud sent)).ok = false := h
  have h2 : (tx sent (clearBuffers s)).2 = false := h
  refine ⟨(tx sent (clearBuffers s)).1.pendingOut, ?_⟩
  simp only [exchange, h2]
  simp [tx, State.advance, State.emit, State.consume, clearBuffers] at hok ⊢
  simp [hok]

/-- R68, R100: everything an exchange can do. It draws its answers, appends its events, leaves the buffers to the
environment, changes nothing else, and gives the echo or raises IoError. -/
theorem exchange_spec (sent : Byte) (s : State) : ∃ pin pout,
    exchange sent s = match s.slotEcho 0 sent with
      | some e => .ret (s.advance (s.slotDraws 0 sent) (s.slotTrace 0 sent) pin pout) e
      | none => .raise (s.advance (s.slotDraws 0 sent) (s.slotTrace 0 sent) pin pout) .io := by
  cases h : s.slotSent 0 sent
  · obtain ⟨pout, he⟩ := exchange_unsent h
    exact ⟨[], pout, by simp [State.slotEcho, State.slotTrace, State.slotDraws, h, he]⟩
  · obtain ⟨pin, pout, he⟩ := exchange_sent h
    refine ⟨pin, pout, ?_⟩
    cases hh : s.slotHeard 0 sent <;>
      simp [State.slotEcho, State.slotTrace, State.slotDraws, h, hh, he]

/-- A command that is admitted runs its body (R26, R27). -/
theorem runCommand_admitted {s : State} (h : s.ctrl ≠ .busy) (body : State → Result (List Byte)) :
    runCommand body s = .next (finish (body s.beginCommand)) := by
  simp [runCommand, h]

/-- A command presented while `CTRL = BUSY` is refused (R27). -/
theorem runCommand_busy {s : State} (h : s.ctrl = .busy) (body : State → Result (List Byte)) :
    runCommand body s = .refused .commandInFlight := by
  simp [runCommand, h]

/-- What `runCommand` can answer, said once. -/
theorem runCommand_next {s t : State} {body : State → Result (List Byte)} (h : runCommand body s = .next t) :
    s.ctrl ≠ .busy ∧ t = finish (body s.beginCommand) := by
  unfold runCommand at h
  split at h
  · cases h
  · exact ⟨‹_›, by simpa using h.symm⟩

@[simp] theorem requireOpen_open {α : Type} {s : State} (h : s.isOpen = true) (body : State → Result α) :
    requireOpen body s = body s := by simp [requireOpen, h]

@[simp] theorem requireOpen_closed {α : Type} {s : State} (h : s.isOpen = false) (body : State → Result α) :
    requireOpen body s = .raise s .notConnected := by simp [requireOpen, h]

@[simp] theorem andFinally_ret {α : Type} (s : State) (a : α) (f : State → State) :
    (Result.ret s a).andFinally f = .ret (f s) a := rfl

@[simp] theorem andFinally_raise {α : Type} (s : State) (e : BlockError) (f : State → State) :
    (Result.raise s e : Result α).andFinally f = .raise (f s) e := rfl

@[simp] theorem finish_ret (s : State) (d : List Byte) : finish (.ret s d) = s.returnData d := rfl

@[simp] theorem finish_raise (s : State) (e : BlockError) : finish (.raise s e) = s.raiseError e := rfl

/-- A command behind the gate, on an open transport, runs its body. -/
theorem gated_open {s : State} (hb : s.ctrl ≠ .busy) (ho : s.isOpen = true) (body : State → Result (List Byte)) :
    runCommand (requireOpen body) s = .next (finish (body s.beginCommand)) := by
  rw [runCommand_admitted hb, requireOpen_open (s := s.beginCommand) ho]

/-- A command behind the gate, on a closed transport, raises NotConnectedError (R125). -/
theorem gated_closed {s : State} (hb : s.ctrl ≠ .busy) (ho : s.isOpen = false) (body : State → Result (List Byte)) :
    runCommand (requireOpen body) s = .next (s.beginCommand.raiseError .notConnected) := by
  rw [runCommand_admitted hb, requireOpen_closed (s := s.beginCommand) ho]
  rfl

/-- What the environment holds for a command is what it held before the command began. -/
theorem beginCommand_slot (s : State) (j : Nat) (sent : Byte) :
    s.beginCommand.slotEcho j sent = s.slotEcho j sent ∧ s.beginCommand.slotTrace j sent = s.slotTrace j sent
      ∧ s.beginCommand.slotDraws j sent = s.slotDraws j sent :=
  slot_congr rfl rfl rfl rfl rfl j sent

end Sys2Proof.Machine
end

