-- ==== Sys2Proof/Laws/BitEngine.lean ====
section
/-!
SUPPORT. What the bit engine's loops can do, said once (R104 to R108): the eight slots of a byte, when every slot
is echoed and when one is the first that is not.
-/

namespace Sys2Proof.Machine

/-- R108: writing bit `i` writes that bit and no other. -/
theorem setBit_getLsbD (acc : Byte) (i j : Nat) (v : Bool) (hi : i < 8) (hj : j < 8) :
    (setBit acc i v).getLsbD j = if j = i then v else acc.getLsbD j := by
  unfold setBit
  have h1 : ((1 : Byte) <<< i).getLsbD j = decide (j = i) := by
    interval_cases i <;> interval_cases j <;> decide
  cases v <;> by_cases h : j = i <;>
    simp [h, hj] at *
  all_goals omega

/-- The accumulator after `n` slots from slot `c` on, slot `i` echoing `e i`. -/
def accumulate (e : Nat → Byte) : Nat → Nat → Byte → Byte
  | 0, _, acc => acc
  | n + 1, c, acc => accumulate e n (c + 1) (setBit acc c (observed (e c)))

theorem accumulate_getLsbD (e : Nat → Byte) (n c : Nat) (acc : Byte) (h : c + n ≤ 8) (j : Nat) (hj : j < 8) :
    (accumulate e n c acc).getLsbD j = if c ≤ j ∧ j < c + n then observed (e j) else acc.getLsbD j := by
  induction n generalizing c acc with
  | zero => rw [if_neg (by omega)]; rfl
  | succ n ih =>
    rw [accumulate, ih (c + 1) _ (by omega), setBit_getLsbD _ _ _ _ (by omega) hj]
    by_cases hc : j = c
    · subst hc
      rw [if_neg (by omega), if_pos rfl, if_pos (by omega)]
    · by_cases h2 : c + 1 ≤ j ∧ j < c + 1 + n
      · rw [if_pos h2, if_pos (by omega)]
      · rw [if_neg h2, if_neg hc, if_neg (by omega)]

/-- R108: observed bit `i` lands in `ACC[i]`. -/
theorem accumulate_byte (e : Nat → Byte) (acc : Byte) (i : Nat) (hi : i < 8) :
    (accumulate e 8 0 acc).getLsbD i = observed (e i) := by
  rw [accumulate_getLsbD e 8 0 acc (by omega) i hi, if_pos (by omega)]

/-- The events of `n` complete slots, slot `i` sending `sent i` and hearing `e i` (R100). -/
def slotEvents (sent e : Nat → Byte) (n : Nat) : List Event :=
  (List.range n).flatMap fun i => [.clear, .tx (sent i) true, .rx (some (e i))]

theorem slotEvents_succ (sent e : Nat → Byte) (n : Nat) : slotEvents sent e (n + 1) =
    [.clear, .tx (sent 0) true, .rx (some (e 0))]
      ++ slotEvents (fun i => sent (i + 1)) (fun i => e (i + 1)) n := by
  simp [slotEvents, List.range_succ_eq_map, List.flatMap_map]

theorem slotEvents_add (sent e : Nat → Byte) (m n : Nat) : slotEvents sent e (m + n) =
    slotEvents sent e m ++ slotEvents (fun i => sent (m + i)) (fun i => e (m + i)) n := by
  simp [slotEvents, List.range_add, List.flatMap_append, List.flatMap_map]

/-- The state after `n` complete slots from slot `CNT` on. -/
def State.recorded (s : State) (e : Nat → Byte) (n : Nat) : State :=
  { s with acc := accumulate (fun i => e i) n s.cnt s.acc, cnt := s.cnt + n }

theorem recorded_zero (s : State) (e : Nat → Byte) : s.recorded e 0 = s := rfl

/-- One complete slot of a byte, then the rest. -/
theorem byteSlots_step {sent : Nat → Byte} {n : Nat} {s : State} {e : Byte}
    (h : s.slotEcho 0 (sent s.cnt) = some e) : ∃ pin pout,
    byteSlots sent (n + 1) s = byteSlots sent n
      ((s.advance 2 [.clear, .tx (sent s.cnt) true, .rx (some e)] pin pout).record (observed e)) := by
  obtain ⟨pin, pout, hx⟩ := exchange_spec (sent s.cnt) s
  obtain ⟨ht, hd⟩ := slot_of_echo h
  exact ⟨pin, pout, by simp [byteSlots, slot, hx, h, ht, hd]⟩

/-- After one complete slot, the slots to come are those of `s`, one later. -/
theorem record_advance_slot (s : State) (tr : List Event) (pin pout : List Byte) (v : Bool) (j : Nat) (sent : Byte) :
    ((s.advance 2 tr pin pout).record v).slotEcho j sent = s.slotEcho (j + 1) sent
      ∧ ((s.advance 2 tr pin pout).record v).slotTrace j sent = s.slotTrace (j + 1) sent
      ∧ ((s.advance 2 tr pin pout).record v).slotDraws j sent = s.slotDraws (j + 1) sent := by
  obtain ⟨a, b, c⟩ := advance_slot s 1 j tr pin pout sent
  obtain ⟨a', b', c'⟩ := slot_congr (s := s.advance 2 tr pin pout)
    (t := (s.advance 2 tr pin pout).record v) rfl rfl rfl rfl rfl j sent
  rw [Nat.add_comm j 1, a', b', c']
  exact ⟨a, b, c⟩

/-- R104 to R106: slots from `CNT` on, the first `j` of them complete. Either they were all there is, or slot `j`
is the first to raise IoError, and no later slot is performed. -/
theorem byteSlots_spec (sent e : Nat → Byte) (n j : Nat) (s : State) (hj : j ≤ n)
    (h : ∀ i < j, s.slotEcho i (sent (s.cnt + i)) = some (e (s.cnt + i)))
    (hlast : j < n → s.slotEcho j (sent (s.cnt + j)) = none) : ∃ pin pout,
    byteSlots sent n s = if j = n then
        .ret ((s.recorded e n).advance (2 * n)
          (slotEvents (fun i => sent (s.cnt + i)) (fun i => e (s.cnt + i)) n) pin pout) ()
      else
        .raise ((s.recorded e j).advance (2 * j + s.slotDraws j (sent (s.cnt + j)))
          (slotEvents (fun i => sent (s.cnt + i)) (fun i => e (s.cnt + i)) j
            ++ s.slotTrace j (sent (s.cnt + j))) pin pout) .io := by
  induction j generalizing n s with
  | zero =>
    cases n with
    | zero =>
      exact ⟨s.pendingIn, s.pendingOut, by simp [byteSlots, recorded_zero, slotEvents, advance_zero]⟩
    | succ n =>
      obtain ⟨pin, pout, hx⟩ := exchange_spec (sent s.cnt) s
      have h0 := hlast (by omega)
      refine ⟨pin, pout, ?_⟩
      simp only [Nat.add_zero] at h0
      simp [byteSlots, slot, hx, h0, recorded_zero, slotEvents]
  | succ j ih =>
    obtain ⟨n, rfl⟩ : ∃ m, n = m + 1 := ⟨n - 1, by omega⟩
    have h0 := h 0 (by omega)
    simp only [Nat.add_zero] at h0
    obtain ⟨pin, pout, hx⟩ := byteSlots_step (n := n) h0
    obtain ⟨pin', pout', hi⟩ := ih n
      ((s.advance 2 [.clear, .tx (sent s.cnt) true, .rx (some (e s.cnt))] pin pout).record (observed (e s.cnt)))
      (by omega)
      (fun i hi => by
        rw [(record_advance_slot s _ _ _ _ i _).1]
        have := h (i + 1) (by omega)
        simpa [Nat.add_assoc, Nat.add_comm 1 i] using this)
      (fun hn => by
        rw [(record_advance_slot s _ _ _ _ j _).1]
        have := hlast (by omega)
        simpa [Nat.add_assoc, Nat.add_comm 1 j] using this)
    refine ⟨pin', pout', ?_⟩
    rw [hx, hi]
    obtain ⟨-, b, c⟩ := record_advance_slot s [.clear, .tx (sent s.cnt) true, .rx (some (e s.cnt))] pin pout
      (observed (e s.cnt)) j (sent (s.cnt + (j + 1)))
    have shift : ∀ (f : Nat → Byte), (fun i => f (s.cnt + 1 + i)) = fun i => f (s.cnt + (i + 1)) := fun f => by
      funext i; congr 1; omega
    have ej : s.cnt + 1 + j = s.cnt + (j + 1) := by omega
    simp only [record_cnt, advance_cnt, shift sent, shift e, ej, b, c, slotEvents_succ, Nat.add_zero]
    by_cases hn : j = n
    · subst hn
      simp only [if_true]
      simp [State.recorded, State.advance, State.record, accumulate, List.drop_drop]
      omega
    · simp only [hn, if_false, Nat.add_right_cancel_iff]
      simp [State.recorded, State.advance, State.record, accumulate, List.drop_drop]
      omega

/-- R29, R104, R105: the eight slots of a byte, the first `j` of them complete. -/
theorem byteTransaction_spec (sent e : Nat → Byte) (j : Nat) (s : State) (hj : j ≤ 8)
    (h : ∀ i < j, s.slotEcho i (sent i) = some (e i)) (hlast : j < 8 → s.slotEcho j (sent j) = none) :
    ∃ pin pout, byteTransaction sent s = if j = 8 then
        .ret ((State.recorded s.startByte e 8).advance 16 (slotEvents sent e 8) pin pout) ()
      else
        .raise ((State.recorded s.startByte e j).advance (2 * j + s.slotDraws j (sent j))
          (slotEvents sent e j ++ s.slotTrace j (sent j)) pin pout) .io := by
  have hc : ∀ k b, s.startByte.slotEcho k b = s.slotEcho k b ∧ s.startByte.slotTrace k b = s.slotTrace k b
      ∧ s.startByte.slotDraws k b = s.slotDraws k b := fun k b => slot_congr rfl rfl rfl rfl rfl k b
  obtain ⟨pin, pout, hx⟩ := byteSlots_spec sent e 8 j s.startByte hj
    (fun i hi => by simpa [(hc _ _).1] using h i hi) (fun hn => by simpa [(hc _ _).1] using hlast hn)
  exact ⟨pin, pout, by simpa [byteTransaction, Config.bitsPerByte, (hc _ _).2.1, (hc _ _).2.2] using hx⟩

/-- The byte that eight complete slots assemble (R108). -/
def assembled (e : Nat → Byte) : Byte := accumulate e 8 0 0x00

/-- R108: slot `i`'s observed bit is bit `i` of the byte. -/
theorem assembled_getLsbD (e : Nat → Byte) (i : Nat) (hi : i < 8) : (assembled e).getLsbD i = observed (e i) :=
  accumulate_byte e 0x00 i hi

/-- A byte is what its eight slots say it is. -/
theorem eq_assembled {a : Byte} {e : Nat → Byte} (h : ∀ i < 8, a.getLsbD i = observed (e i)) : a = assembled e := by
  apply BitVec.eq_of_getLsbD_eq
  intro i hi
  rw [h i hi, assembled_getLsbD e i hi]

/-- R105: a byte read, every slot echoed. -/
theorem readByteBody_complete (e : Nat → Byte) (s : State) (h : ∀ i < 8, s.slotEcho i 0xFF = some (e i)) :
    ∃ pin pout, readByteBody s = .ret (State.advance { s with acc := assembled e, cnt := 8 } 16
      (slotEvents (fun _ => 0xFF) e 8) pin pout) (assembled e) := by
  obtain ⟨pin, pout, hx⟩ := byteTransaction_spec readSlots e 8 s (by omega) h (by omega)
  rw [if_pos rfl] at hx
  exact ⟨pin, pout, by rw [readByteBody, hx]; rfl⟩

/-- R106: a byte read that slot `j` ends with IoError. -/
theorem readByteBody_fails (e : Nat → Byte) (j : Nat) (s : State) (hj : j < 8)
    (h : ∀ i < j, s.slotEcho i 0xFF = some (e i)) (hlast : s.slotEcho j 0xFF = none) :
    ∃ acc pin pout, readByteBody s = .raise (State.advance { s with acc := acc, cnt := j }
      (2 * j + s.slotDraws j 0xFF) (slotEvents (fun _ => 0xFF) e j ++ s.slotTrace j 0xFF) pin pout) .io := by
  obtain ⟨pin, pout, hx⟩ := byteTransaction_spec readSlots e j s (by omega) h (fun _ => hlast)
  rw [if_neg (by omega)] at hx
  refine ⟨accumulate e j 0 0x00, pin, pout, ?_⟩
  rw [readByteBody, hx]
  simp [State.recorded, State.startByte, State.advance, readSlots, Config.slotOne]
  rfl

/-- Of any `n` slots, either every one is echoed or one is the first that is not: `j` counts those before it. -/
theorem slots_first_failure (s : State) (sent : Nat → Byte) (n : Nat) : ∃ j ≤ n, ∃ e : Nat → Byte,
    (∀ i < j, s.slotEcho i (sent i) = some (e i)) ∧ (j < n → s.slotEcho j (sent j) = none) := by
  induction n with
  | zero => exact ⟨0, by omega, fun _ => 0, by omega, by omega⟩
  | succ n ih =>
    obtain ⟨j, hj, e, he, hn⟩ := ih
    by_cases hjn : j < n
    · exact ⟨j, by omega, e, he, fun _ => hn hjn⟩
    · obtain rfl : j = n := by omega
      cases hx : s.slotEcho j (sent j) with
      | none => exact ⟨j, by omega, e, he, fun _ => hx⟩
      | some x =>
        refine ⟨j + 1, by omega, fun i => if i = j then x else e i, fun i hi => ?_, by omega⟩
        by_cases hij : i = j
        · subst hij
          simp [hx]
        · simp [hij, he i (by omega)]

end Sys2Proof.Machine
end

