-- ==== Sys2Proof/Laws/BusController.lean ====
section
/-!
SUPPORT. What the bus controller's operations can do, said once: the byte-sequence read (R124, R106) and the reset
pulse (R123, R126).
-/

namespace Sys2Proof.Machine

/-- The bytes that `8 * n` complete slots assemble, in the order read (R44, R124). -/
def assembledBytes (e : Nat → Byte) (n : Nat) : List Byte := (List.range n).map fun k => assembled fun i => e (8 * k + i)

theorem assembledBytes_length (e : Nat → Byte) (n : Nat) : (assembledBytes e n).length = n := by
  simp [assembledBytes]

theorem assembledBytes_succ (e : Nat → Byte) (n : Nat) :
    assembledBytes e (n + 1) = assembled e :: assembledBytes (fun i => e (8 + i)) n := by
  simp [assembledBytes, List.range_succ_eq_map, Nat.mul_add, Nat.add_comm, Nat.add_left_comm]

theorem assembledBytes_getElem? (e : Nat → Byte) (n k : Nat) (hk : k < n) :
    (assembledBytes e n)[k]? = some (assembled fun i => e (8 * k + i)) := by
  simp [assembledBytes, hk]

/-- After one byte read, the slots to come are those of `s`, eight later. -/
theorem countByte_slot (s : State) (acc : Byte) (cnt : Nat) (tr : List Event) (pin pout : List Byte) (j : Nat)
    (sent : Byte) :
    (State.advance { s with acc := acc, cnt := cnt } 16 tr pin pout).countByte.slotEcho j sent = s.slotEcho (8 + j) sent
      ∧ (State.advance { s with acc := acc, cnt := cnt } 16 tr pin pout).countByte.slotTrace j sent
        = s.slotTrace (8 + j) sent
      ∧ (State.advance { s with acc := acc, cnt := cnt } 16 tr pin pout).countByte.slotDraws j sent
        = s.slotDraws (8 + j) sent := by
  obtain ⟨x, y, z⟩ := advance_slot s 8 j tr pin pout sent
  obtain ⟨x', y', z'⟩ := slot_congr (s := s.advance (2 * 8) tr pin pout)
    (t := (State.advance { s with acc := acc, cnt := cnt } 16 tr pin pout).countByte) rfl rfl rfl rfl rfl j sent
  exact ⟨x'.trans x, y'.trans y, z'.trans z⟩

/-- R124: a byte-sequence read, every slot echoed. -/
theorem readBytesLoop_complete (e : Nat → Byte) (n : Nat) (out : List Byte) (s : State)
    (h : ∀ i < 8 * n, s.slotEcho i 0xFF = some (e i)) : ∃ acc cnt pin pout, cnt = (if n = 0 then s.cnt else 8) ∧
    readBytesLoop n out s = .ret (State.advance { s with acc := acc, cnt := cnt, byteCnt := s.byteCnt + n }
      (16 * n) (slotEvents (fun _ => 0xFF) e (8 * n)) pin pout) (out ++ assembledBytes e n) := by
  induction n generalizing e out s with
  | zero => exact ⟨s.acc, s.cnt, s.pendingIn, s.pendingOut, rfl, by
      simp [readBytesLoop, slotEvents, assembledBytes, State.advance]⟩
  | succ n ih =>
    obtain ⟨pin, pout, hb⟩ := readByteBody_complete e s (fun i hi => h i (by omega))
    obtain ⟨acc, cnt, pin', pout', hc, hr⟩ := ih (fun i => e (8 + i)) (out ++ [assembled e])
      (State.advance { s with acc := assembled e, cnt := 8 } 16 (slotEvents (fun _ => 0xFF) e 8) pin pout).countByte
      (fun i hi => by rw [(countByte_slot ..).1]; exact h (8 + i) (by omega))
    refine ⟨acc, cnt, pin', pout', ?_, ?_⟩
    · rw [hc]
      split <;> simp
    · have he : slotEvents (fun _ => 0xFF) e (8 * (n + 1)) = slotEvents (fun _ => 0xFF) e 8
          ++ slotEvents (fun _ => 0xFF) (fun i => e (8 + i)) (8 * n) := by
        rw [show 8 * (n + 1) = 8 + 8 * n by omega, slotEvents_add]
      simp only [readBytesLoop, hb]
      rw [hr, he]
      simp [State.advance, State.countByte, assembledBytes_succ, List.drop_drop]
      omega

/-- R106: a byte-sequence read that slot `j` ends with IoError. -/
theorem readBytesLoop_fails (e : Nat → Byte) (n j : Nat) (out : List Byte) (s : State) (hj : j < 8 * n)
    (h : ∀ i < j, s.slotEcho i 0xFF = some (e i)) (hlast : s.slotEcho j 0xFF = none) : ∃ acc pin pout,
    readBytesLoop n out s = .raise (State.advance
      { s with acc := acc, cnt := j % 8, byteCnt := s.byteCnt + j / 8 } (2 * j + s.slotDraws j 0xFF)
      (slotEvents (fun _ => 0xFF) e j ++ s.slotTrace j 0xFF) pin pout) .io := by
  induction n generalizing e out s j with
  | zero => omega
  | succ n ih =>
    by_cases hlt : j < 8
    · obtain ⟨acc, pin, pout, hb⟩ := readByteBody_fails e j s hlt h hlast
      refine ⟨acc, pin, pout, ?_⟩
      rw [readBytesLoop, hb, Nat.mod_eq_of_lt hlt, Nat.div_eq_of_lt hlt]
      rfl
    · obtain ⟨k, rfl⟩ : ∃ k, j = 8 + k := ⟨j - 8, by omega⟩
      obtain ⟨pin, pout, hb⟩ := readByteBody_complete e s (fun i hi => h i (by omega))
      obtain ⟨acc, pin', pout', hr⟩ := ih (fun i => e (8 + i)) k (out ++ [assembled e])
        (State.advance { s with acc := assembled e, cnt := 8 } 16 (slotEvents (fun _ => 0xFF) e 8) pin pout).countByte (by omega)
        (fun i hi => by rw [(countByte_slot ..).1]; exact h (8 + i) (by omega))
        (by rw [(countByte_slot ..).1]; exact hlast)
      refine ⟨acc, pin', pout', ?_⟩
      simp only [readBytesLoop, hb]
      rw [hr, (countByte_slot ..).2.1, (countByte_slot ..).2.2, slotEvents_add]
      simp [State.advance, State.countByte, List.drop_drop]
      omega

/-- R120: everything OPEN's body can do: the transport opens, at 115200 baud and with its own pending buffers, or it
does not and the state is as before but for the event and the answer drawn. -/
theorem openBody_spec (path : Path) (timeout : Duration) (s : State) :
    openBody path timeout s = if (s.answerAt 0 (.topen path)).ok then
        .ret (State.advance { s with baud := .b115200, timeout := some timeout, isOpen := true } 1
          [.topen path true, .setBaud .b115200] (s.answerAt 0 (.topen path)).arrived
          (s.answerAt 0 (.topen path)).unsent) []
      else .raise (s.advance 1 [.topen path false] s.pendingIn s.pendingOut) .io := by
  cases h : (s.answerAt 0 (.topen path)).ok
  · simp [openBody, tOpen, h, State.advance, State.consume, State.emit]
  · simp [openBody, tOpen, h, State.advance, State.consume, State.emit, setBaud, Config.baudBit]

/-- R123, R126: everything the reset pulse can do: the rate goes to 9600, one exchange of `0xF0`, and the rate is
back at 115200 on every path, before the echo is classified. -/
theorem resetBody_spec (s : State) : ∃ pin pout,
    let p := setBaud .b9600 s
    let t := setBaud .b115200 (p.advance (p.slotDraws 0 0xF0) (p.slotTrace 0 0xF0) pin pout)
    resetBody s = match p.slotEcho 0 0xF0 with
      | none => .raise t .io
      | some e => match (classifyPresence e).verdict with
        | none => .ret t []
        | some err => .raise t err := by
  obtain ⟨pin, pout, hx⟩ := exchange_spec 0xF0 (setBaud .b9600 s)
  refine ⟨pin, pout, ?_⟩
  simp only [resetBody, Config.resetPulse, Config.baudReset, Config.baudBit]
  rw [hx]
  cases (setBaud .b9600 s).slotEcho 0 0xF0 <;> rfl

end Sys2Proof.Machine
end

