-- ==== Sys2Proof/Laws/Crc8.lean ====
section
/-!
SUPPORT. The CRC-8 function, said once: the bit step and the byte steps are linear, and the checksum is a fold.
-/

namespace Sys2Proof.Machine

/-- R80: the bit step shifts, and adds the mask where the mixed bit is set. -/
theorem crcBit_eq (c d : Byte) :
    crcBit c d = (c >>> 1) ^^^ (if (c.getLsbD 0 ^^ d.getLsbD 0) then Config.crcPolyReflected else 0x00) := by
  have hm : (c ^^^ d) &&& 1 = 1 ↔ (c.getLsbD 0 ^^ d.getLsbD 0) = true := by
    rw [← BitVec.getLsbD_xor]
    generalize c ^^^ d = x
    revert x
    decide
  unfold crcBit
  by_cases h : (c.getLsbD 0 ^^ d.getLsbD 0) = true
  · rw [if_pos (hm.2 h), if_pos h]
  · rw [if_neg (fun h' => h (hm.1 h')), if_neg h]; simp

/-- R80: only bit 0 of the input byte counts. -/
theorem crcBit_congr {d d' : Byte} (c : Byte) (h : d.getLsbD 0 = d'.getLsbD 0) : crcBit c d = crcBit c d' := by
  rw [crcBit_eq, crcBit_eq, h]

/-- The bit step is linear. -/
theorem crcBit_xor (c c' d d' : Byte) : crcBit (c ^^^ c') (d ^^^ d') = crcBit c d ^^^ crcBit c' d' := by
  have split : ∀ p q r s : Bool, (if ((p ^^ q) ^^ (r ^^ s)) then Config.crcPolyReflected else 0x00)
      = (if (p ^^ r) then Config.crcPolyReflected else 0x00) ^^^ (if (q ^^ s) then Config.crcPolyReflected else 0x00) := by
    decide
  rw [crcBit_eq, crcBit_eq, crcBit_eq, BitVec.getLsbD_xor, BitVec.getLsbD_xor, BitVec.ushiftRight_xor_distrib, split]
  ac_rfl

/-- Any number of bit steps is linear. -/
theorem crcSteps_xor (n : Nat) (c c' d d' : Byte) :
    crcSteps n (c ^^^ c') (d ^^^ d') = crcSteps n c d ^^^ crcSteps n c' d' := by
  induction n generalizing c c' d d' with
  | zero => rfl
  | succ n ih => simp only [crcSteps, crcBit_xor, BitVec.ushiftRight_xor_distrib, ih]

@[simp] theorem crc8_nil : crc8 [] = Config.crcSeed := rfl

/-- R82: bytes are fed in sequence order. -/
theorem crc8_append (s t : List Byte) : crc8 (s ++ t) = t.foldl crcByte (crc8 s) := List.foldl_append

theorem crc8_concat (s : List Byte) (b : Byte) : crc8 (s ++ [b]) = crcByte (crc8 s) b := crc8_append s [b]

end Sys2Proof.Machine
end

