-- ==== Sys2Proof/Laws/Decode.lean ====
section
/-!
SUPPORT. The decoder and the encoder, said once: the two fields of a command word, and what `decode` accepts.
-/

namespace Sys2Proof

@[simp] theorem opcField_commandWord (opc opd : Byte) : opcField (commandWord opc opd) = opc := by
  apply BitVec.eq_of_getLsbD_eq
  intro i hi
  simp only [opcField, commandWord, BitVec.getLsbD_extractLsb']
  interval_cases i <;> simp

@[simp] theorem opdField_commandWord (opc opd : Byte) : opdField (commandWord opc opd) = opd := by
  apply BitVec.eq_of_getLsbD_eq
  intro i hi
  simp only [opdField, commandWord, BitVec.getLsbD_extractLsb']
  interval_cases i <;> simp

/-- R60: a word is its two fields. -/
theorem commandWord_fields (w : Word) : commandWord (opcField w) (opdField w) = w := by
  apply BitVec.eq_of_getLsbD_eq
  intro i hi
  simp only [opcField, opdField, commandWord]
  interval_cases i <;> simp

theorem commandWord_inj {a b c d : Byte} : commandWord a b = commandWord c d ↔ a = c ∧ b = d := by
  constructor
  · intro h
    exact ⟨by simpa using congrArg opcField h, by simpa using congrArg opdField h⟩
  · rintro ⟨rfl, rfl⟩
    rfl

theorem operandless_ok {opd : Byte} {i j : Instr} : operandless opd i = .ok j ↔ opd = 0x00 ∧ j = i := by
  unfold operandless
  split
  · rename_i hz
    exact ⟨fun h => ⟨hz, by cases h; rfl⟩, fun h => by rw [h.2]⟩
  · rename_i hz
    exact ⟨fun h => (by cases h), fun h => absurd h.1 hz⟩

theorem bitOperand_ok {opd : Byte} {j : Instr} :
    bitOperand opd = .ok j ↔ opd.extractLsb' 1 7 = 0 ∧ j = .owWriteBit (opd.extractLsb' 0 1) := by
  unfold bitOperand
  split
  · rename_i hz
    exact ⟨fun h => ⟨hz, by cases h; rfl⟩, fun h => by rw [h.2]⟩
  · rename_i hz
    exact ⟨fun h => (by cases h), fun h => absurd h.1 hz⟩

/-- R61: an operand byte with bits 7:1 zero is its bit 0, widened. -/
theorem setWidth_bit (opd : Byte) (h : opd.extractLsb' 1 7 = 0) : (opd.extractLsb' 0 1).setWidth 8 = opd := by
  revert opd
  decide

theorem ite_eq_cases {α : Type} {c : Prop} [Decidable c] {a b x : α} (h : (if c then a else b) = x) :
    (c ∧ a = x) ∨ (¬ c ∧ b = x) := by
  by_cases hc : c
  · exact .inl ⟨hc, by rwa [if_pos hc] at h⟩
  · exact .inr ⟨hc, by rwa [if_neg hc] at h⟩

/-- What `decode` accepts, said once: the word's fields are the command's `OPC` and `OPD`, and OPEN's side arguments
are the request's. -/
theorem decode_ok {r : Request} {i : Instr} (h : decode r = .ok i) :
    opcField r.word = i.opc ∧ opdField r.word = i.opd
      ∧ ∀ path timeout, i = .openTransport path timeout → path = r.path ∧ timeout = r.timeout := by
  unfold decode at h
  simp only at h
  rcases ite_eq_cases h with ⟨hc, h⟩ | ⟨-, h⟩
  · obtain ⟨hz, rfl⟩ := operandless_ok.1 h
    exact ⟨hc, hz, fun _ _ he => by cases he; exact ⟨rfl, rfl⟩⟩
  iterate 10
    rcases ite_eq_cases h with ⟨hc, h⟩ | ⟨-, h⟩
    · first
      | (obtain ⟨hz, rfl⟩ := operandless_ok.1 h
         exact ⟨hc, hz, fun _ _ he => by cases he⟩)
      | (obtain ⟨hz, rfl⟩ := bitOperand_ok.1 h
         exact ⟨hc, (setWidth_bit _ hz).symm, fun _ _ he => by cases he⟩)
      | (cases h
         exact ⟨hc, rfl, fun _ _ he => by cases he⟩)
  cases h

end Sys2Proof
end

