-- ==== Sys2Proof/Laws/Fetch.lean ====
section
/-!
SUPPORT. What taking a command does, said once: the environment has its turn at the pending buffers, the command leaves
the interface, and what is left is the command's own.
-/

namespace Sys2Proof.Machine

/-- R22, R31: a step with a command presented. -/
theorem step_command {s : State} {r : Request} {rest : List Request} (h : s.commands = r :: rest) :
    step s = execRequest r { s.lineActs with commands := rest } := by
  simp [step, takeNext, h, State.takeCommand]

/-- The environment's turn at the buffers shows in the buffers and in the account of its answers only. -/
theorem lineActs_eq (s : State) :
    s.lineActs = { s with
      pendingIn := (s.answerAt 0 .between).arrived
      pendingOut := (s.answerAt 0 .between).unsent
      env := s.env.drop 1
      drawn := s.drawn + 1 } := by
  simp [State.lineActs, State.consume]

end Sys2Proof.Machine
end

