-- ==== Sys2Proof/Laws/PerInstr.lean ====
section
/-!
SUPPORT. A statement about each command as syntax, one lemma a constructor: the word the encoder writes selects a row
of the opcode map (R62), so no command is encoded by an illegal word (R63).
-/

namespace Sys2Proof.Laws.EncodesRow
open Sys2Proof Sys2Proof.Machine

/-- R62: the command's word matches a row of the opcode map. -/
def Statement (i : Instr) : Prop := MatchesRow (encode i).word

/-- A word with a byte operand keeps its opcode byte under the mask `0xFF00`. -/
theorem byte_operand_masked (opc opd : Byte) : commandWord opc opd &&& 0xFF00 = opc.setWidth 16 <<< 8 := by
  ext k hk
  have h := (show ∀ k < 16, (0xFF00#16).getLsbD k = decide (8 ≤ k) by decide) k hk
  rw [← BitVec.getLsbD_eq_getElem, ← BitVec.getLsbD_eq_getElem]
  simp only [commandWord, BitVec.getLsbD_and, BitVec.getLsbD_or, BitVec.getLsbD_shiftLeft, BitVec.getLsbD_setWidth]
  by_cases h8 : 8 ≤ k
  · simp [h, h8]
  · simp [h, h8]

theorem openTransport (path : Path) (timeout : Duration) : Statement (.openTransport path timeout) :=
  ⟨(0x0100, 0xFFFF), by decide, show commandWord 0x01 0x00 &&& 0xFFFF = 0x0100 by decide⟩

theorem closeTransport : Statement .closeTransport := ⟨(0x0200, 0xFFFF), by decide, by decide⟩

theorem owReset : Statement .owReset := ⟨(0x1000, 0xFFFF), by decide, by decide⟩

theorem owWriteBit (v : BitVec 1) : Statement (.owWriteBit v) :=
  ⟨(0x1100, 0xFFFE), by decide, by revert v; decide⟩

theorem owReadBit : Statement .owReadBit := ⟨(0x1200, 0xFFFF), by decide, by decide⟩

theorem owWriteByte (b : Byte) : Statement (.owWriteByte b) :=
  ⟨(0x1300, 0xFF00), by decide, byte_operand_masked 0x13 b⟩

theorem owReadByte : Statement .owReadByte := ⟨(0x1400, 0xFFFF), by decide, by decide⟩

theorem owReadBytes (n : Byte) : Statement (.owReadBytes n) :=
  ⟨(0x1500, 0xFF00), by decide, byte_operand_masked 0x15 n⟩

theorem crcInit : Statement .crcInit := ⟨(0x2000, 0xFFFF), by decide, by decide⟩

theorem crcByte (b : Byte) : Statement (.crcByte b) :=
  ⟨(0x2100, 0xFF00), by decide, byte_operand_masked 0x21 b⟩

theorem crcRead : Statement .crcRead := ⟨(0x2200, 0xFFFF), by decide, by decide⟩

end Sys2Proof.Laws.EncodesRow
end

