-- ==== Sys2Proof/Laws/Protocol.lean ====
section
/-!
SUPPORT. What the host does with one command, said once, and where an exchange finds its answers.
-/

namespace Sys2Proof.Machine

/-- A block presented with a host's command whose word decodes to it executes it, the buffers as the environment left
them. -/
theorem step_sending {i : Instr} (hd : decode (encode i) = .ok i) (h : HostState) :
    step (h.sending i).block = exec i h.block.lineActs := by
  rw [step_command (r := encode i) (rest := h.block.commands) rfl]
  simp only [execRequest, hd]
  rfl

/-- What the host does with a command whose word decodes to it. -/
theorem issue_eq {α : Type} {i : Instr} (hd : decode (encode i) = .ok i) (h : HostState)
    (k : HostState → List Byte → HostEnd α) :
    issue i h k = match exec i h.block.lineActs with
      | .next t => answer { log := h.log ++ [.cmd i], block := t } k
      | .fault f => .fault (h.sending i) f
      | .refused r => .refused (h.sending i) r := by
  simp only [issue, step_sending hd]
  rfl

/-- A response OK hands its data on (R149). -/
theorem answer_ok {α : Type} {h : HostState} {info : Byte} {data : List Byte}
    (hr : h.block.response = some ⟨0, info, data⟩) (k : HostState → List Byte → HostEnd α) :
    answer h k = k h data := by
  simp only [answer, hr]
  rfl

/-- A response with another status ends the sequence with it (R149). -/
theorem answer_error {α : Type} {h : HostState} {st : Status} {r : Response} (hr : h.block.response = some r)
    (hc : r.status = st.code) (hs : st ≠ .ok) (k : HostState → List Byte → HostEnd α) :
    answer h k = .failed h st r.info := by
  simp only [answer, hr, hc]
  cases st <;> first | rfl | exact absurd rfl hs

/-- No command: the host stands where it stood. -/
@[simp] theorem allSucceed_nil (h h' : HostState) : AllSucceed [] h h' ↔ h' = h := Iff.rfl

/-- The first command is answered OK, and the others succeed after it. -/
theorem allSucceed_cons (i : Instr) (is : List Instr) (h h' : HostState) :
    AllSucceed (i :: is) h h' ↔ ∃ t data, step (h.sending i).block = .next t ∧ t.response = some ⟨0, 0x00, data⟩
      ∧ AllSucceed is { log := h.log ++ [.cmd i], block := t } h' := Iff.rfl

/-- An exchange's echo depends on the answers to come, the rate, the timeout and `OPEN_DRAIN_ECHO` only. -/
theorem slotEcho_of_later {s t : State} {n : Nat} (he : t.env = s.env.drop n) (hd : t.drawn = s.drawn + n)
    (ht : t.timeout = s.timeout) (ho : t.openDrainEcho = s.openDrainEcho) (j : Nat) (sent : Byte) :
    t.slotEcho j sent = (s.later n t.baud).slotEcho j sent := by
  have ha : ∀ k ask, t.answerAt k ask = (s.later n t.baud).answerAt k ask := fun k ask => by
    simp [State.answerAt, he, hd]
  simp [State.slotEcho, State.slotSent, State.slotHeard, ha, ht, ho]

end Sys2Proof.Machine
end

