-- ==== Sys2Proof/Tests/Slice0.lean ====
section
/-!
SUPPORT. Tests and witnesses. Every expected value is the spec's own, from the rule or the vector
(spec/95_test_vectors.md) named with it. Each test is one step; a witness meets the hypotheses of the obligation it is
named after.
-/

namespace Sys2Proof.Tests
open Sys2Proof Sys2Proof.Machine

/-! ### Small states -/

/-- Answers that let every byte out and return these echoes. -/
def answers (echoes : List (Option Byte)) : List Answer :=
  echoes.flatMap fun e => [{ ok := true, arrived := [], unsent := [] }, { ok := true, arrived := e.toList, unsent := [] }]

/-- An open block at rest, facing these echoes. -/
def opened (echoes : List (Option Byte)) : State :=
  { State.reset with
    isOpen := true, baud := .b115200, timeout := some Config.oneSecond, ctrl := .idle, env := answers echoes }

/-- An open block whose next byte does not get out. -/
def mute : State := { opened [] with env := [{ ok := false, arrived := [], unsent := [] }] }

/-- A closed block whose transport opens or not. -/
def closedFacing (ok : Bool) : State := { State.reset with env := [{ ok := ok, arrived := [], unsent := [] }] }

/-- A block with a command in flight. -/
def busy : State := { State.reset with ctrl := .busy }

/-- Echoes that spell a byte, least significant bit first ("Slave sends x", and the perfect echo of x). -/
def spell (b : Byte) : List (Option Byte) := (List.range 8).map fun i => some (if b.getLsbD i then 0xFF else 0x00)

/-- `slot(t,e)` of the vectors. -/
def slotOf (t e : Byte) : List Event := [.clear, .tx t true, .rx (some e)]

/-- The response a step ends in. -/
def responseOf : Host.Outcome State Fault Refusal → Option Response
  | .next t => t.response
  | .fault _ => none
  | .refused _ => none

/-- The trace a step ends in. -/
def traceOf : Host.Outcome State Fault Refusal → List Event
  | .next t => t.trace
  | .fault _ => []
  | .refused _ => []

/-- The refusal a step ends in. -/
def refusalOf : Host.Outcome State Fault Refusal → Option Refusal
  | .next _ => none
  | .fault _ => none
  | .refused r => some r

/-- The state a step goes on in, if it does. -/
def after (s : State) : Host.Outcome State Fault Refusal → State
  | .next t => t
  | .fault _ => s
  | .refused _ => s

/-! ### WellFormed -/

theorem test_zero_timeout_is_ill_formed : Instr.wellFormed (.openTransport [] 0) = false := by decide
theorem test_negative_timeout_is_ill_formed : Instr.wellFormed (.openTransport [] (-1)) = false := by decide
theorem test_positive_timeout_is_well_formed : Instr.wellFormed (.openTransport [] 1) = true := by decide
theorem test_well_formed_prop : ¬ Instr.WellFormed (.openTransport [] 0) := by decide

/-! ### Decoding (R60 to R63, and the decoder table of the vectors) -/

theorem test_decode_open : decode ⟨0b0000000100000000#16, [0x2F], 5⟩ = .ok (.openTransport [0x2F] 5) := by decide
theorem test_decode_close : decode ⟨0b0000001000000000#16, [], 0⟩ = .ok .closeTransport := by decide
theorem test_decode_reset : decode ⟨0b0001000000000000#16, [], 0⟩ = .ok .owReset := by decide
theorem test_decode_write_bit_0 : decode ⟨0b0001000100000000#16, [], 0⟩ = .ok (.owWriteBit 0) := by decide
theorem test_decode_write_bit_1 : decode ⟨0b0001000100000001#16, [], 0⟩ = .ok (.owWriteBit 1) := by decide
theorem test_decode_read_bit : decode ⟨0b0001001000000000#16, [], 0⟩ = .ok .owReadBit := by decide
theorem test_decode_write_byte : decode ⟨0b0001001100110011#16, [], 0⟩ = .ok (.owWriteByte 0x33) := by decide
theorem test_decode_read_byte : decode ⟨0b0001010000000000#16, [], 0⟩ = .ok .owReadByte := by decide
theorem test_decode_read_bytes : decode ⟨0b0001010111111111#16, [], 0⟩ = .ok (.owReadBytes 255) := by decide
theorem test_decode_crc_init : decode ⟨0b0010000000000000#16, [], 0⟩ = .ok .crcInit := by decide
theorem test_decode_crc_byte : decode ⟨0b0010000100101000#16, [], 0⟩ = .ok (.crcByte 0x28) := by decide
theorem test_decode_crc_read : decode ⟨0b0010001000000000#16, [], 0⟩ = .ok .crcRead := by decide
theorem test_decode_illegal_write_bit : decode ⟨0x1102#16, [], 0⟩ = .error .writeBitOperand := by decide
theorem test_decode_illegal_operand : decode ⟨0x12FF#16, [], 0⟩ = .error .operandNotZero := by decide
theorem test_decode_illegal_opcode : ([0x0000, 0xFFFF, 0x0300, 0x1600, 0x2300] : List Word).map
      (fun w => decode ⟨w, [], 0⟩)
    = [.error .unassignedOpcode, .error .unassignedOpcode, .error .unassignedOpcode, .error .unassignedOpcode,
       .error .unassignedOpcode] := by decide
theorem test_table_word : decodeTableWord 16 0x1508 = some (.owReadBytes 8) := by decide
theorem test_table_word_runs :
    responseOf (step (State.reset.withFetchWord 16 0x2200)) = some ⟨0, 0x00, [0x00]⟩ := by decide
/-- R163, R164: the refusal comes before the illegal word, and the illegal word before the gate. -/
theorem test_illegal_word_before_gate :
    responseOf (step (State.reset.present ⟨0x1102, [], 0⟩)) = some ⟨8, 0x00, []⟩
    ∧ refusalOf (step (busy.present ⟨0x1102, [], 0⟩)) = some .commandInFlight := by decide

/-! ### One step of each command -/

/-- V-OPN-2. -/
theorem test_open : (after .reset (exec (.openTransport [0x70] 1000000000) (closedFacing true))).timeout
      = some 1000000000
    ∧ traceOf (exec (.openTransport [0x70] 1000000000) (closedFacing true))
      = [.topen [0x70] true, .setBaud .b115200] := by decide
/-- V-OPN-1, V-OPN-3, V-OPN-4. -/
theorem test_open_fails_or_is_refused :
    responseOf (exec (.openTransport [] 1) (closedFacing false)) = some ⟨2, 0x00, []⟩
    ∧ refusalOf (exec (.openTransport [] 1) (opened [])) = some .openWhileOpen
    ∧ refusalOf (exec (.openTransport [] 0) (closedFacing true)) = some .timeoutNotPositive := by decide
/-- V-CLS-1, V-CLS-2. -/
theorem test_close : traceOf (exec .closeTransport (opened [])) = [.tclose]
    ∧ (after (opened []) (exec .closeTransport (opened []))).ctrl = .closed
    ∧ refusalOf (exec .closeTransport .reset) = some .closeWhileClosed := by decide
/-- V-RST-1 to V-RST-11. -/
theorem test_reset_verdicts :
    ([0x50, 0xF0, 0x00, 0x01, 0x0F, 0x10, 0xE0, 0xE1, 0xEF, 0xF1, 0xFF] : List Byte).map
      (fun p => responseOf (exec .owReset (opened [some p])))
    = [some ⟨0, 0x00, []⟩, some ⟨3, 0x00, []⟩, some ⟨4, 0x00, []⟩, some ⟨5, 0x01, []⟩, some ⟨5, 0x0F, []⟩,
       some ⟨0, 0x00, []⟩, some ⟨0, 0x00, []⟩, some ⟨5, 0xE1, []⟩, some ⟨5, 0xEF, []⟩, some ⟨5, 0xF1, []⟩,
       some ⟨5, 0xFF, []⟩] := by decide
/-- V-RST-12, V-RST-13. -/
theorem test_reset_restores_the_rate :
    traceOf (exec .owReset (opened [none]))
      = [.setBaud .b9600, .clear, .tx 0xF0 true, .rx none, .setBaud .b115200]
    ∧ traceOf (exec .owReset mute) = [.setBaud .b9600, .clear, .tx 0xF0 false, .setBaud .b115200]
    ∧ (after .reset (exec .owReset mute)).baud = .b115200 := by decide
/-- V-BIT-1 to V-BIT-4. -/
theorem test_write_bit : responseOf (exec (.owWriteBit 1) (opened [some 0xFF])) = some ⟨0, 0x00, [0x01]⟩
    ∧ responseOf (exec (.owWriteBit 1) (opened [some 0xFE])) = some ⟨0, 0x00, [0x00]⟩
    ∧ traceOf (exec (.owWriteBit 0) (opened [some 0x00])) = slotOf 0x00 0x00
    ∧ responseOf (exec (.owWriteBit 0) (opened [some 0xFF])) = some ⟨0, 0x00, [0x01]⟩ := by decide
/-- V-BIT-5, V-BIT-6, V-BIT-9. -/
theorem test_write_bit_fails : responseOf (exec (.owWriteBit 1) (opened [none])) = some ⟨2, 0x00, []⟩
    ∧ traceOf (exec (.owWriteBit 1) mute) = [.clear, .tx 0xFF false]
    ∧ responseOf (exec (.owWriteBit 1) .reset) = some ⟨1, 0x00, []⟩ := by decide
/-- V-BIT-7, V-BIT-8. -/
theorem test_read_bit : traceOf (exec .owReadBit (opened [some 0xF8])) = slotOf 0xFF 0xF8
    ∧ responseOf (exec .owReadBit (opened [some 0xF8])) = some ⟨0, 0x00, [0x00]⟩
    ∧ responseOf (exec .owReadBit (opened [some 0xFF])) = some ⟨0, 0x00, [0x01]⟩ := by decide
/-- V-BYTE-1, V-BYTE-2. -/
theorem test_write_byte : traceOf (exec (.owWriteByte 0x33) (opened (spell 0x33)))
      = slotOf 0xFF 0xFF ++ slotOf 0xFF 0xFF ++ slotOf 0x00 0x00 ++ slotOf 0x00 0x00
        ++ slotOf 0xFF 0xFF ++ slotOf 0xFF 0xFF ++ slotOf 0x00 0x00 ++ slotOf 0x00 0x00
    ∧ responseOf (exec (.owWriteByte 0x33) (opened (spell 0x33))) = some ⟨0, 0x00, []⟩
    ∧ responseOf (exec (.owWriteByte 0x33) (opened (spell 0x37))) = some ⟨6, 0x37, []⟩ := by decide
/-- V-BYTE-5: a later timeout wins over an earlier mismatch. -/
theorem test_write_byte_times_out : responseOf (exec (.owWriteByte 0x00)
      (opened [some 0xFF, some 0x00, some 0x00, some 0x00, some 0x00, none])) = some ⟨2, 0x00, []⟩ := by decide
/-- V-RD-1. -/
theorem test_read_byte : responseOf (exec .owReadByte (opened (spell 0x28))) = some ⟨0, 0x00, [0x28]⟩ := by decide
/-- V-RD-4. -/
theorem test_read_byte_times_out : responseOf (exec .owReadByte (opened ((spell 0x7F).take 7 ++ [none])))
    = some ⟨2, 0x00, []⟩ := by decide
/-- V-RDS-1 to V-RDS-3. -/
theorem test_read_bytes : responseOf (exec (.owReadBytes 2) (opened (spell 0x90 ++ spell 0x01)))
      = some ⟨0, 0x00, [0x90, 0x01]⟩
    ∧ responseOf (exec (.owReadBytes 0) (opened [])) = some ⟨0, 0x00, []⟩
    ∧ responseOf (exec (.owReadBytes 0) .reset) = some ⟨1, 0x00, []⟩ := by decide
/-- V-RDS-4. -/
theorem test_read_bytes_times_out : responseOf (exec (.owReadBytes 2)
    (opened (spell 0xFF ++ [some 0xFF, some 0xFF, some 0xFF, none]))) = some ⟨2, 0x00, []⟩ := by decide
/-- V-CRCC-4, R83. -/
theorem test_crc_init : (after .reset (exec .crcInit { State.reset with crc := 0x85 })).crc = 0x00 := by decide
/-- V-CRCC-2, V-CRCC-5. -/
theorem test_crc_byte : (after .reset (exec (.crcByte 0x51) .reset)).crc = 0x85
    ∧ (after .reset (exec (.crcByte 0x51) { State.reset with crc := 0x51 })).crc = 0x00 := by decide
/-- V-CRCC-3. -/
theorem test_crc_read : responseOf (exec .crcRead { State.reset with crc := 0x85 }) = some ⟨0, 0x00, [0x85]⟩ := by decide

/-! ### The functions behind the commands -/

/-- The bit-step vectors. -/
theorem test_crc_bit : crcBit 0x00 0x01 = 0x8C ∧ crcBit 0x01 0x01 = 0x00 ∧ crcBit 0xFF 0x00 = 0xF3
    ∧ crcBit 0x00 0xFE = 0x00 ∧ crcBit 0x8C 0x01 = 0xCA := by decide
/-- The byte-step vectors. -/
theorem test_crc_byte_step : crcByte 0x00 0xFF = 0x35 ∧ crcByte 0x5E 0x00 = 0xC4 ∧ crcByte 0xAB 0x00 = 0x8F
    ∧ crcByte 0x12 0x34 = 0xFE ∧ crcByte 0x00 0x28 = 0xE1 := by decide
/-- V-CRC-1, V-CRC-7, V-CRC-9, V-CRC-10, V-CRC-11. -/
theorem test_crc8 : crc8 [0x28, 0xFF, 0x64, 0x1E, 0x04, 0x16, 0x03] = 0x51 ∧ crc8 [0x01, 0x02] = 0x78
    ∧ crc8 [0xFF, 0xFF, 0xFF, 0xFF, 0xFF, 0xFF, 0xFF] = 0x14
    ∧ crc8 [0x90, 0x01, 0x4B, 0x46, 0x7F, 0xFF, 0x0C, 0x10] = 0x33
    ∧ crc8 [0x31, 0x32, 0x33, 0x34, 0x35, 0x36, 0x37, 0x38, 0x39] = 0xA1 := by decide +kernel
/-- The temperature vectors, in sixteenths. -/
theorem test_temperature : rawTemperature 0x91 0x01 = 401 ∧ rawTemperature 0xF8 0xFF = -8
    ∧ rawTemperature 0x90 0xFC = -880 ∧ rawTemperature 0x00 0x80 = -32768 ∧ rawTemperature 0xFF 0x7F = 32767 := by decide
/-- R31: noise between commands is pending when the next one begins, and a slot's clear keeps it from being read. -/
theorem test_noise_between_commands :
    (after .reset (step { opened [] with commands := [encode .crcInit], env := [⟨true, [0xAA], []⟩] })).pendingIn = [0xAA]
    ∧ responseOf (step { opened [] with
        commands := [encode .owReadBit], env := ⟨true, [0xAA], []⟩ :: answers [some 0xFF] }) = some ⟨0, 0x00, [0x01]⟩ := by
  decide
/-- R42: a second byte stays pending; the next clear drops it. -/
theorem test_second_byte_stays_pending :
    (rx 0xFF { opened [] with env := [{ ok := true, arrived := [0x01, 0x02], unsent := [] }] }).2 = some 0x01
    ∧ (rx 0xFF { opened [] with env := [{ ok := true, arrived := [0x01, 0x02], unsent := [] }] }).1.pendingIn = [0x02]
    ∧ (clearBuffers { opened [] with pendingIn := [0x02] }).pendingIn = [] := by decide

/-! ### The host (programs P2, P2b and P3, from OW_RESET on) -/

/-- Answers for commands one after another: a stale byte is pending when each begins, then come its echoes. -/
def sequenceOf (commands : List (List (Option Byte))) : List Answer :=
  commands.flatMap fun echoes => { ok := true, arrived := [0xFF], unsent := [] } :: answers echoes

/-- A host in front of an open block, with the echoes of its commands. -/
def hostOf (commands : List (List (Option Byte))) : HostState :=
  { log := [], block := { opened [] with env := sequenceOf commands } }

/-- What a host's sequence ends in: its result, or the error. -/
def resultOf {α : Type} : HostEnd α → Option α
  | .done _ a => some a
  | .failed _ _ _ => none
  | .refused _ _ => none
  | .fault _ _ => none
  | .awaiting _ => none

/-- The error a host's sequence ends in. -/
def errorOf {α : Type} : HostEnd α → Option (Status × Byte)
  | .done _ _ => none
  | .failed _ st info => some (st, info)
  | .refused _ _ => none
  | .fault _ _ => none
  | .awaiting _ => none

/-- P2's echoes from OW_RESET on, with the trailer given. -/
def romEchoes (trailer : Byte) : List (List (Option Byte)) :=
  [[some 0x50], spell 0x33, ([0x28, 0xFF, 0x64, 0x1E, 0x04, 0x16, 0x03, trailer] : List Byte).flatMap spell]

/-- P3's echoes from OW_RESET on. -/
def temperatureEchoes : List (List (Option Byte)) :=
  [[some 0x50], spell 0xCC, spell 0x44, [some 0x50], spell 0xCC, spell 0xBE,
   ([0x90, 0x01, 0x4B, 0x46, 0x7F, 0xFF, 0x0C, 0x10, 0x33] : List Byte).flatMap spell]

theorem test_read_rom : resultOf (readRom (hostOf (romEchoes 0x51)))
    = some [0x28, 0xFF, 0x64, 0x1E, 0x04, 0x16, 0x03, 0x51] := by decide +kernel
theorem test_read_rom_corrupted : errorOf (readRom (hostOf (romEchoes 0x52))) = some (.crcError, 0x00) := by decide +kernel
theorem test_read_temperature : resultOf (readTemperature Config.settleTimeDefault (hostOf temperatureEchoes))
    = some (some 25) := by decide +kernel

/-! ### Witnesses: concrete inputs that meet the hypotheses of each obligation, clause by clause -/

/-- A block with two commands presented. -/
def fed : State := { State.reset with commands := [encode .crcInit, encode .crcRead] }

/-- A block that meets `State.Inv`, open and facing these echoes. -/
theorem opened_inv (echoes : List (Option Byte)) : (opened echoes).Inv where
  ctrl := rfl
  baud := fun _ => rfl
  timeout := fun _ => ⟨Config.oneSecond, rfl, by decide⟩
  cnt := Nat.zero_le _
  byteCnt := Nat.zero_le _
  response := fun _ h => by cases h

/-- The response of an open block after one command. -/
def oneSlot (i : Instr) (e : Option Byte) : Option Response := responseOf (exec i (opened [e]))

theorem witness_EncodeOfDecodeIsTheWord : decode ⟨0x13FF, [], 0⟩ = .ok (.owWriteByte 0xFF) := by decide

/-- One illegal word of each of R63's three kinds. -/
theorem witness_IllegalWordsOnlyReportIllegalCommand :
    (State.reset.present ⟨0x1600, [], 0⟩).commands = ⟨0x1600, [], 0⟩ :: []
    ∧ (State.reset.present ⟨0x1600, [], 0⟩).ctrl ≠ .busy ∧ ¬ MatchesRow 0x1600 ∧ ¬ MatchesRow 0x1102
    ∧ ¬ MatchesRow 0x1001 := by
  unfold MatchesRow
  decide

theorem witness_StepRunsTheDecodedCommand : fed.commands = encode .crcInit :: [encode .crcRead]
    ∧ decode (encode .crcInit) = .ok .crcInit := by decide

theorem witness_BlockWaitsForACommand : State.reset.commands = [] := rfl

theorem witness_BusyBlockRefusesForEver :
    (busy.present ⟨0xFFFF, [], 0⟩).commands = ⟨0xFFFF, [], 0⟩ :: [] ∧ (busy.present ⟨0xFFFF, [], 0⟩).ctrl = .busy := by
  decide

/-- An admitted state for every constructor. -/
theorem witness_AdmittedCommandsCompleteWithALegalResponse (path : Path) (v : BitVec 1) (b n : Byte) :
    Refuses (.openTransport path 1) .reset = false ∧ Refuses .closeTransport (opened []) = false
    ∧ Refuses .owReset (opened []) = false ∧ Refuses (.owWriteBit v) (opened []) = false
    ∧ Refuses .owReadBit (opened []) = false ∧ Refuses (.owWriteByte b) (opened []) = false
    ∧ Refuses .owReadByte (opened []) = false ∧ Refuses (.owReadBytes n) (opened []) = false
    ∧ Refuses .crcInit .reset = false ∧ Refuses (.crcByte b) .reset = false ∧ Refuses .crcRead .reset = false :=
  ⟨rfl, rfl, rfl, rfl, rfl, rfl, rfl, rfl, rfl, rfl, rfl⟩

theorem witness_EveryStepKeepsTheBlockLegal :
    (opened []).Inv ∧ step { opened [] with commands := [] } = .next (opened []) := ⟨opened_inv [], rfl⟩

/-- OPEN changes `OPEN`, `BAUD` and `TIMEOUT`; CRC_BYTE changes `CRC`. -/
theorem witness_PersistentFieldsChangeOnlyByTheirWriters :
    (after .reset (exec (.openTransport [] 1) (closedFacing true))).isOpen ≠ (closedFacing true).isOpen
    ∧ (after .reset (exec (.openTransport [] 1) (closedFacing true))).baud ≠ (closedFacing true).baud
    ∧ (after .reset (exec (.openTransport [] 1) (closedFacing true))).timeout ≠ (closedFacing true).timeout
    ∧ (after .reset (exec (.crcByte 0x01) .reset)).crc ≠ State.reset.crc := by decide

/-- A command and an illegal word at the head of the interface. -/
theorem witness_RunTracesConcatenateInIssueOrder : decode (encode .crcInit) = .ok .crcInit
    ∧ fed.commands = encode .crcInit :: [encode .crcRead]
    ∧ (∃ t, exec .crcInit { fed.lineActs with commands := [encode .crcRead] } = .next t)
    ∧ ¬ MatchesRow 0x1600 ∧ ∃ t, step (State.reset.present ⟨0x1600, [], 0⟩) = .next t :=
  ⟨by decide, rfl, ⟨_, rfl⟩, by unfold MatchesRow; decide, _, rfl⟩

/-- For CrcInitLoadsTheSeed, CrcByteFeedsOneByte, CrcReadReturnsTheRegister and HostCrcCheckGoesOnExactlyWhenValid. -/
theorem witness_not_busy : State.reset.ctrl ≠ .busy ∧ (hostOf []).block.ctrl ≠ .busy := by decide

theorem witness_CrcReadReturnsTheRegister :
    ∃ t u, exec .crcRead .reset = .next t ∧ exec .crcRead t = .next u := ⟨_, _, rfl, rfl⟩

/-- A block with the example of R85 presented. -/
def checksumming : State :=
  { State.reset with commands := (Pseudo.crc8 [0x28, 0xFF, 0x64, 0x1E, 0x04, 0x16, 0x03]).expand.map encode }

/-- The run of CrcReadReturnsTheRegister. -/
theorem witness_CrcReadReturnsTheRegister_run : checksumming.ctrl ≠ .busy ∧ checksumming.commands
    = (Pseudo.crc8 [0x28, 0xFF, 0x64, 0x1E, 0x04, 0x16, 0x03]).expand.map encode ++ [] := ⟨by decide, by simp [checksumming]⟩

theorem witness_CrcResidueCharacterisesValidity : ([0x00] : List Byte) ≠ [] := by decide

/-- The empty sequence of bytes, and seven bytes. -/
theorem witness_CrcCommandSequenceComputesCrc8 : fed.ctrl ≠ .busy
    ∧ fed.commands = encode .crcInit :: (([] : List Byte).map fun b => encode (.crcByte b)) ++ encode .crcRead :: []
    ∧ checksumming.ctrl ≠ .busy ∧ checksumming.commands
      = encode .crcInit :: (([0x28, 0xFF, 0x64, 0x1E, 0x04, 0x16, 0x03] : List Byte).map fun b => encode (.crcByte b))
        ++ encode .crcRead :: [] := ⟨by decide, rfl, by decide, rfl⟩

theorem witness_CrcCommandsAreIndependentOfTheTransceiver : busy.ctrl = .busy ∧ State.reset.ctrl ≠ .busy := by
  decide

/-- For ClosedTransportReportsNotConnected and the closed clauses of WriteBitReturnsTheObservedBit,
ReadBitIsWriteBitOne and ResetPulseReportsThePresence. -/
theorem witness_ClosedTransportReportsNotConnected : State.reset.ctrl ≠ .busy ∧ State.reset.isOpen = false := by
  decide

/-- For the open clauses of WriteBitReturnsTheObservedBit, ReadBitIsWriteBitOne, ReadByteTracesLikeWriteFf,
ResetPulseReportsThePresence, ResetAlwaysRestoresTheBaudRate and CloseClosesTheTransport. -/
theorem witness_open_at_rest : (opened []).ctrl ≠ .busy ∧ (opened []).isOpen = true := by decide

theorem witness_WriteBitReturnsTheObservedBit :
    ({ opened [some 0xFF] with openDrainEcho := true } : State).isOpen = true
    ∧ State.slotEcho { opened [some 0xFF] with openDrainEcho := true } 0 0x00 = some 0x00
    ∧ ∃ t, exec (.owWriteBit 0) { opened [some 0xFF] with openDrainEcho := true } = .next t :=
  ⟨rfl, by decide, _, rfl⟩

/-- Also PerfectEchoWritesEveryByte. -/
theorem witness_WriteByteComparesAfterEightSlots : (opened (spell 0x33)).ctrl ≠ .busy
    ∧ (opened (spell 0x33)).isOpen = true
    ∧ ∀ i < 8, (opened (spell 0x33)).slotEcho i (if (0x33 : Byte).getLsbD i then 0xFF else 0x00)
        = some (if (0x33 : Byte).getLsbD i then 0xFF else 0x00) := by decide

theorem witness_ReadByteReturnsTheEightObservedBits : (opened (spell 0x28)).ctrl ≠ .busy
    ∧ (opened (spell 0x28)).isOpen = true
    ∧ ∀ i < 8, (opened (spell 0x28)).slotEcho i 0xFF = some (if (0x28 : Byte).getLsbD i then 0xFF else 0x00) := by
  decide

/-- The least count, and two bytes. -/
theorem witness_ReadBytesReturnsTheBytesInOrder :
    (∀ i < 8 * (0 : Byte).toNat, (opened []).slotEcho i 0xFF = some 0x00)
    ∧ ∀ i < 8 * (2 : Byte).toNat, (opened (spell 0xFF ++ spell 0xFF)).slotEcho i 0xFF = some 0xFF := by decide

/-- The last slot of a byte fails (a write of `0x7F`, a read), and slot 11 of a two-byte read. -/
theorem witness_ByteCommandsStopAtTheFirstFailedSlot :
    (∀ i < 7, (opened (List.replicate 7 (some 0xFF) ++ [none])).slotEcho i
        (if (0x7F : Byte).getLsbD i then 0xFF else 0x00) = some 0xFF)
    ∧ (opened (List.replicate 7 (some 0xFF) ++ [none])).slotEcho 7
        (if (0x7F : Byte).getLsbD 7 then 0xFF else 0x00) = none
    ∧ (∀ i < 7, (opened (List.replicate 7 (some 0xFF) ++ [none])).slotEcho i 0xFF = some 0xFF)
    ∧ (opened (List.replicate 7 (some 0xFF) ++ [none])).slotEcho 7 0xFF = none
    ∧ (∀ i < 11, (opened (List.replicate 11 (some 0xFF) ++ [none])).slotEcho i 0xFF = some 0xFF)
    ∧ (opened (List.replicate 11 (some 0xFF) ++ [none])).slotEcho 11 0xFF = none
    ∧ 11 < 8 * (2 : Byte).toNat := by decide

theorem witness_BitCommandsNeverSetTheBaudRate : (∃ t, exec .owReadBit (opened [none]) = .next t)
    ∧ (opened []).Inv ∧ (opened []).isOpen = true := ⟨⟨_, rfl⟩, opened_inv [], rfl⟩

theorem witness_EchoIsConstrainedOnlyByOpenDrain :
    ({ opened [some 0x0F] with openDrainEcho := true } : State).openDrainEcho = true
    ∧ State.slotEcho { opened [some 0x0F] with openDrainEcho := true } 0 0xF0 = some 0x00
    ∧ State.reset.openDrainEcho = false := by decide

/-- Also EveryCommandPerformsBoundedTraffic. -/
theorem witness_SuccessfulCommandsHaveFixedTraffic :
    ∃ t, exec (.owWriteBit 1) (opened [some 0xFF]) = .next t ∧ t.response = some ⟨0, 0x00, [0x01]⟩ := ⟨_, rfl, rfl⟩

/-- Refused while open, refused with a timeout of 0, opened, and not opened. -/
theorem witness_OpenOpensTheTransportAt115200 : (opened []).isOpen = true ∧ ¬ (0 : Duration) < 0
    ∧ (closedFacing true).ctrl ≠ .busy ∧ (closedFacing true).isOpen = false ∧ (0 : Duration) < 1
    ∧ ((closedFacing true).answerAt 0 (.topen [])).ok = true
    ∧ (closedFacing false).isOpen = false ∧ ((closedFacing false).answerAt 0 (.topen [])).ok = false := by decide

/-- The bounds of the Present class, the two single values, and the neighbours of all of them. -/
theorem witness_PresenceEchoFallsInOneClass : ([0x0F, 0x10, 0xE0, 0xE1, 0xEF, 0xF0, 0xF1, 0x00, 0x01, 0xFF]
      : List Byte).map classifyPresence
    = [.malformed 0x0F, .present, .present, .malformed 0xE1, .malformed 0xEF, .noDevice, .malformed 0xF1,
       .shortCircuit, .malformed 0x01, .malformed 0xFF] := by decide

theorem witness_ResetAlwaysRestoresTheBaudRate : (∃ t, exec .owReset (opened [none]) = .next t)
    ∧ (opened [none]).isOpen = true ∧ (∃ t, exec .owReset .reset = .next t) ∧ State.reset.isOpen = false :=
  ⟨⟨_, rfl⟩, rfl, ⟨_, rfl⟩, rfl⟩

/-- Two different states; one command goes on from both, another is refused from both. -/
theorem witness_StaleBytesAreNeverObserved :
    SameButBuffers (opened [none]) { opened [none] with pendingIn := [0xFF] }
    ∧ (∃ t, exec .owReadBit (opened [none]) = .next t)
    ∧ exec (.openTransport [] 1) (opened [none]) = .refused .openWhileOpen := ⟨rfl, ⟨_, rfl⟩, rfl⟩

theorem witness_ErrorsLeaveTheHandleUsable : (opened [none]).Inv ∧ (opened [none]).isOpen = true
    ∧ Gated .owReset = true ∧ (∃ t, exec .owReset (opened [none]) = .next t)
    ∧ ∃ t, exec (.openTransport [] 1) (closedFacing false) = .next t ∧ t.response = some ⟨2, 0x00, []⟩ :=
  ⟨opened_inv [none], rfl, rfl, ⟨_, rfl⟩, _, rfl, rfl⟩

/-- One command for each status a command reports. -/
theorem witness_StatusIsReportedOnlyByItsCommands :
    responseOf (exec .crcInit .reset) = some ⟨Status.ok.code, 0x00, []⟩
    ∧ responseOf (exec .owReset .reset) = some ⟨Status.notConnected.code, 0x00, []⟩
    ∧ oneSlot .owReset none = some ⟨Status.ioError.code, 0x00, []⟩
    ∧ oneSlot .owReset (some 0xF0) = some ⟨Status.noDevice.code, 0x00, []⟩
    ∧ oneSlot .owReset (some 0x00) = some ⟨Status.shortCircuit.code, 0x00, []⟩
    ∧ oneSlot .owReset (some 0xFF) = some ⟨Status.presenceError.code, 0xFF, []⟩
    ∧ responseOf (exec (.owWriteByte 0x33) (opened (spell 0x37))) = some ⟨Status.protocolError.code, 0x37, []⟩ := by
  decide

theorem witness_ReservedStatusCodesFault : 9 ≤ (9 : BitVec 4).toNat ∧ 9 ≤ (15 : BitVec 4).toNat := by decide

/-- `ReadSpells`, checked slot by slot. -/
theorem spells_of_list {s : State} {bs : List Byte}
    (h : (List.range bs.length).all (fun k => (List.range 8).all fun i =>
      (s.slotEcho (8 * k + i) 0xFF).map observed == (bs[k]?).map fun b => b.getLsbD i) = true) : s.ReadSpells bs := by
  intro k i b hk hi
  have hlt : k < bs.length := (List.getElem?_eq_some_iff.1 hk).1
  have hs := List.all_eq_true.1 (List.all_eq_true.1 h k (List.mem_range.2 hlt)) i (List.mem_range.2 hi)
  simpa [hk] using hs

/-- `test_read_rom` says what the result is. -/
theorem witness_ReadRomReturnsOnlyValidatedBytes : (resultOf (readRom (hostOf (romEchoes 0x51)))).isSome = true := by
  decide +kernel

/-- `test_read_temperature` says what the result is. -/
theorem witness_ReadTemperatureReturnsOnlyValidatedReadings :
    (resultOf (readTemperature Config.settleTimeDefault (hostOf temperatureEchoes))).isSome = true := by decide +kernel

theorem witness_ReadRomStopsAtTheFirstError : errorOf (readRom (hostOf [[none]])) = some (.ioError, 0x00) := by
  decide

/-- The command after the conversion wait fails. -/
theorem witness_ReadTemperatureStopsAtTheFirstError :
    errorOf (readTemperature 0 (hostOf [[some 0x50], spell 0xCC, spell 0x44, [some 0xF0]])) = some (.noDevice, 0x00) := by
  decide +kernel

/-- Eight CRC-valid bytes: the host of `test_read_rom`. -/
theorem witness_ReadRomReturnsTheBytesADeviceSends : ∃ h : HostState, h.block.isOpen = true ∧ h.block.ctrl ≠ .busy
    ∧ crcValid [0x28, 0xFF, 0x64, 0x1E, 0x04, 0x16, 0x03, 0x51] = true
    ∧ (h.block.later 1 .b9600).PresenceAnswered ∧ (h.block.later 4 .b115200).WriteEchoed 0x33
    ∧ (h.block.later 21 .b115200).ReadSpells [0x28, 0xFF, 0x64, 0x1E, 0x04, 0x16, 0x03, 0x51] := by
  refine ⟨hostOf (romEchoes 0x51), rfl, by decide, by decide +kernel, ⟨0x50, by decide, by decide, by decide +kernel⟩,
    by unfold State.WriteEchoed; decide +kernel, spells_of_list ?_⟩
  decide +kernel

/-- Nine CRC-valid bytes: the host of `test_read_temperature`. -/
theorem witness_ReadTemperatureReturnsTheTemperatureADeviceSends : ∃ h : HostState, h.block.isOpen = true
    ∧ h.block.ctrl ≠ .busy ∧ crcValid [0x90, 0x01, 0x4B, 0x46, 0x7F, 0xFF, 0x0C, 0x10, 0x33] = true
    ∧ (h.block.later 1 .b9600).PresenceAnswered ∧ (h.block.later 4 .b115200).WriteEchoed 0xCC
    ∧ (h.block.later 21 .b115200).WriteEchoed 0x44 ∧ (h.block.later 38 .b9600).PresenceAnswered
    ∧ (h.block.later 41 .b115200).WriteEchoed 0xCC ∧ (h.block.later 58 .b115200).WriteEchoed 0xBE
    ∧ (h.block.later 75 .b115200).ReadSpells [0x90, 0x01, 0x4B, 0x46, 0x7F, 0xFF, 0x0C, 0x10, 0x33] := by
  refine ⟨hostOf temperatureEchoes, rfl, by decide, by decide +kernel, ⟨0x50, by decide, by decide, by decide +kernel⟩,
    ?_, ?_, ⟨0x50, by decide, by decide, by decide +kernel⟩, ?_, ?_, spells_of_list ?_⟩
  all_goals (try unfold State.WriteEchoed); decide +kernel

/-- A command answered OK, one answered with an error, one refused, a host with no response and one with a reserved
code. -/
theorem witness_IssueGoesOnAfterOkAndStopsOnAnyError :
    (∃ t r, step ((hostOf []).sending .crcRead).block = .next t ∧ t.response = some r ∧ r.status = 0)
    ∧ (∃ t r, step ((hostOf [[none]]).sending .owReset).block = .next t ∧ t.response = some r
        ∧ r.status = Status.code .ioError)
    ∧ (∃ r, step ((hostOf []).sending (.openTransport [] 1)).block = .refused r)
    ∧ (hostOf []).block.response = none
    ∧ ∃ h : HostState, h.block.response = some ⟨9, 0x00, []⟩ :=
  ⟨⟨_, _, rfl, rfl, rfl⟩, ⟨_, _, rfl, rfl, rfl⟩, ⟨_, rfl⟩, rfl,
    ⟨[], { State.reset with response := some ⟨9, 0x00, []⟩ }⟩, rfl⟩

/-- READ_ROM's second command is not echoed. -/
theorem witness_HostOperationsEndWithTheirFirstError : ∃ h' before,
    AllSucceed [.owReset] (hostOf [[some 0x50], [none]]) before
    ∧ FirstFailure [.owReset, .owWriteByte 0x33, .owReadBytes 8] (hostOf [[some 0x50], [none]]) h' .ioError 0x00 :=
  ⟨⟨[.cmd .owReset, .cmd (.owWriteByte 0x33)], _⟩, _, ⟨_, _, rfl, rfl, rfl⟩,
    1, _, _, rfl, ⟨_, _, rfl, rfl, rfl⟩, rfl, rfl, by decide, rfl⟩

/-- READ_TEMPERATURE's first reset finds no device; and its second one, after the wait. -/
theorem witness_HostOperationsEndWithTheirFirstError_temperature :
    (∃ h', FirstFailure [.owReset, .owWriteByte 0xCC, .owWriteByte 0x44] (hostOf [[some 0xF0]]) h' .noDevice 0x00)
    ∧ ∃ h' converted,
      AllSucceed [.owReset, .owWriteByte 0xCC, .owWriteByte 0x44]
        (hostOf [[some 0x50], spell 0xCC, spell 0x44, [some 0xF0]]) converted
      ∧ FirstFailure [.owReset, .owWriteByte 0xCC, .owWriteByte 0xBE, .owReadBytes 9]
          { converted with log := converted.log ++ [.wait 0] } h' .noDevice 0x00 :=
  ⟨⟨⟨[.cmd .owReset], _⟩, 0, _, _, rfl, rfl, rfl, rfl, by decide, rfl⟩,
    ⟨⟨_, _⟩, _, ⟨_, _, rfl, rfl, _, _, rfl, rfl, _, _, rfl, rfl, rfl⟩, 0, _, _, rfl, rfl, rfl, rfl, by decide, rfl⟩⟩

end Sys2Proof.Tests
end

section
/-!
The scope's run of commands (spec/00_scope.md): what decides whether a word decodes, what a step does with either kind
of word, and how the traces of a run's commands join.
-/

namespace Sys2Proof.Machine

/-! ### Words that decode and words that do not -/

/-- R62: every command's word selects a row of the opcode map. -/
theorem encode_matchesRow (i : Instr) : MatchesRow (encode i).word := by
  cases i with
  | openTransport path timeout => exact Laws.EncodesRow.openTransport path timeout
  | closeTransport => exact Laws.EncodesRow.closeTransport
  | owReset => exact Laws.EncodesRow.owReset
  | owWriteBit v => exact Laws.EncodesRow.owWriteBit v
  | owReadBit => exact Laws.EncodesRow.owReadBit
  | owWriteByte b => exact Laws.EncodesRow.owWriteByte b
  | owReadByte => exact Laws.EncodesRow.owReadByte
  | owReadBytes n => exact Laws.EncodesRow.owReadBytes n
  | crcInit => exact Laws.EncodesRow.crcInit
  | crcByte b => exact Laws.EncodesRow.crcByte b
  | crcRead => exact Laws.EncodesRow.crcRead

/-- R60: a word that decodes is the word of the command it decodes to. -/
theorem encode_word_of_decode {r : Request} {i : Instr} (h : decode r = .ok i) : (encode i).word = r.word := by
  obtain ⟨hopc, hopd, -⟩ := decode_ok h
  rw [← commandWord_fields r.word, hopc, hopd]
  rfl

/-- R63: a word that decodes matches a row. -/
theorem matchesRow_of_decode {r : Request} {i : Instr} (h : decode r = .ok i) : MatchesRow r.word :=
  encode_word_of_decode h ▸ encode_matchesRow i

/-! ### What a request runs -/

theorem execRequest_of_decode {r : Request} {i : Instr} (h : decode r = .ok i) (s : State) :
    execRequest r s = exec i s := by
  simp [execRequest, h]

theorem execRequest_of_not_matchesRow {r : Request} (h : ¬ MatchesRow r.word) (s : State) :
    execRequest r s = execIllegal s := by
  cases hd : decode r with
  | ok i => exact absurd (matchesRow_of_decode hd) h
  | error e => simp [execRequest, hd]

/-- R63: an illegal word performs no transport primitive. -/
theorem execIllegal_trace {s t : State} (h : execIllegal s = .next t) : t.trace = [] := by
  obtain ⟨-, rfl⟩ := runCommand_next h
  rfl

/-! ### A command and the trace before it -/

/-- R13: a command's trace starts empty, so its body never meets the one before it. -/
theorem runCommand_trace_irrelevant (body : State → Result (List Byte)) (s : State) (earlier : List Event) :
    runCommand body { s with trace := earlier } = runCommand body s := rfl

/-- R13, R52: the trace left by the command before decides nothing of a command, its refusal included. -/
theorem exec_trace_irrelevant (i : Instr) (s : State) (earlier : List Event) :
    exec i { s with trace := earlier } = exec i s := by
  cases i with
  | openTransport path timeout => simp only [exec, execOpen, runCommand_trace_irrelevant]
  | closeTransport => simp only [exec, execClose, runCommand_trace_irrelevant]
  | owReset => exact runCommand_trace_irrelevant (requireOpen resetBody) s earlier
  | owWriteBit v => exact runCommand_trace_irrelevant (requireOpen (bitBody (slotByte (bitValue v)))) s earlier
  | owReadBit => exact runCommand_trace_irrelevant (requireOpen (bitBody Config.slotOne)) s earlier
  | owWriteByte b => exact runCommand_trace_irrelevant (requireOpen (writeByteBody b)) s earlier
  | owReadByte => exact runCommand_trace_irrelevant (requireOpen readByteData) s earlier
  | owReadBytes n => exact runCommand_trace_irrelevant (requireOpen (readBytesBody n)) s earlier
  | crcInit => exact runCommand_trace_irrelevant (fun s => .ret { s with crc := Config.crcSeed } []) s earlier
  | crcByte b => exact runCommand_trace_irrelevant (fun s => .ret { s with crc := crcByte s.crc b } []) s earlier
  | crcRead => exact runCommand_trace_irrelevant (fun s => .ret s [s.crc]) s earlier

/-! ### The trace of a run -/

/-- R52: a run of `k + 1` commands shows the first one's trace, then what the other `k` show from the state it
leaves. -/
theorem runTrace_succ {s t : State} {r : Request} {rest : List Request} (hc : s.commands = r :: rest)
    (hs : step s = .next t) (k : Nat) : runTrace (k + 1) s = t.trace ++ runTrace k t := by
  simp [runTrace, observations, hc, hs, State.observation]

/-- Settles O15: the head command's trace comes first because a run's observations do, an illegal word's is empty, and a
command starts from an empty trace. -/
theorem runTracesConcatenateInIssueOrder : Obligations.RunTracesConcatenateInIssueOrder := by
  refine ⟨fun s t r rest i k hc hd he => ?_, fun s t r rest k hc hm hs => ?_, exec_trace_irrelevant⟩
  · have hs : step s = .next t := by rw [step_command hc, execRequest_of_decode hd, he]
    exact runTrace_succ hc hs k
  · have hi : execIllegal { s.lineActs with commands := rest } = .next t := by
      rw [← execRequest_of_not_matchesRow hm, ← step_command hc, hs]
    rw [runTrace_succ hc hs, execIllegal_trace hi, List.nil_append]

end Sys2Proof.Machine
end

section
/-!
The block's state (spec/10_state.md): a command as its own refusal and its body, what a body can do to the state, and
what that makes of the invariant, the persistent fields and the pending buffers.
-/

namespace Sys2Proof.Machine

/-! ### A command is a refusal of its own or a body -/

/-- What a command does between its admission and its response: the body its arm of `exec` runs. -/
def commandBody : Instr → State → Result (List Byte)
  | .openTransport path timeout => openBody path timeout
  | .closeTransport => closeBody
  | .owReset => requireOpen resetBody
  | .owWriteBit v => requireOpen (bitBody (slotByte (bitValue v)))
  | .owReadBit => requireOpen (bitBody Config.slotOne)
  | .owWriteByte b => requireOpen (writeByteBody b)
  | .owReadByte => requireOpen readByteData
  | .owReadBytes n => requireOpen (readBytesBody n)
  | .crcInit => fun s => .ret { s with crc := Config.crcSeed } []
  | .crcByte b => fun s => .ret { s with crc := crcByte s.crc b } []
  | .crcRead => fun s => .ret s [s.crc]

/-- R120, R121: why a block at rest refuses a command, from what `OPEN` is; none if it admits it. -/
def refusalAtRest : Instr → Bool → Option Refusal
  | .openTransport _ timeout, isOpen =>
    if isOpen then some .openWhileOpen else if 0 < timeout then none else some .timeoutNotPositive
  | .closeTransport, isOpen => if isOpen then none else some .closeWhileClosed
  | .owReset, _ => none
  | .owWriteBit _, _ => none
  | .owReadBit, _ => none
  | .owWriteByte _, _ => none
  | .owReadByte, _ => none
  | .owReadBytes _, _ => none
  | .crcInit, _ => none
  | .crcByte _, _ => none
  | .crcRead, _ => none

/-- R163: a command is refused in flight or for its own reason, and otherwise runs its body. -/
theorem exec_eq (i : Instr) (s : State) : exec i s =
    match refusalAtRest i s.isOpen with
    | some r => .refused (if s.ctrl = .busy then .commandInFlight else r)
    | none => runCommand (commandBody i) s := by
  cases i with
  | openTransport path timeout =>
    by_cases hb : s.ctrl = .busy
    · simp only [exec, execOpen, if_pos hb, runCommand_busy hb]
      split <;> rfl
    · simp only [exec, execOpen, if_neg hb, refusalAtRest, commandBody]
      split_ifs <;> rfl
  | closeTransport =>
    by_cases hb : s.ctrl = .busy
    · simp only [exec, execClose, if_pos hb, runCommand_busy hb]
      split <;> rfl
    · simp only [exec, execClose, if_neg hb, refusalAtRest, commandBody]
      split_ifs <;> rfl
  | owReset => rfl
  | owWriteBit v => rfl
  | owReadBit => rfl
  | owWriteByte b => rfl
  | owReadByte => rfl
  | owReadBytes n => rfl
  | crcInit => rfl
  | crcByte b => rfl
  | crcRead => rfl

theorem exec_of_refusal {i : Instr} {s : State} {r : Refusal} (h : refusalAtRest i s.isOpen = some r) :
    exec i s = .refused (if s.ctrl = .busy then .commandInFlight else r) := by
  rw [exec_eq, h]

theorem exec_of_no_refusal {i : Instr} {s : State} (h : refusalAtRest i s.isOpen = none) :
    exec i s = runCommand (commandBody i) s := by
  rw [exec_eq, h]

/-- R27: every command is refused in flight. -/
theorem exec_busy {s : State} (h : s.ctrl = .busy) (i : Instr) : exec i s = .refused .commandInFlight := by
  cases hr : refusalAtRest i s.isOpen with
  | some r => rw [exec_of_refusal hr, if_pos h]
  | none => rw [exec_of_no_refusal hr, runCommand_busy h]

theorem execRequest_busy {s : State} (h : s.ctrl = .busy) (r : Request) :
    execRequest r s = .refused .commandInFlight := by
  cases hd : decode r with
  | ok i => rw [execRequest_of_decode hd, exec_busy h]
  | error e => simp [execRequest, hd, execIllegal, runCommand_busy h]

/-- A command that ends with a next state was admitted, and the state is where its body ended. -/
theorem exec_next {i : Instr} {s t : State} (h : exec i s = .next t) :
    refusalAtRest i s.isOpen = none ∧ t = finish (commandBody i s.beginCommand) := by
  cases hr : refusalAtRest i s.isOpen with
  | some r => rw [exec_of_refusal hr] at h; cases h
  | none => rw [exec_of_no_refusal hr] at h; exact ⟨rfl, (runCommand_next h).2⟩

/-- R8, R120: an OPEN that is admitted has a positive timeout. -/
theorem wellFormed_of_no_refusal {i : Instr} {isOpen : Bool} (h : refusalAtRest i isOpen = none) : i.WellFormed := by
  cases i with
  | openTransport path timeout =>
    by_contra ht
    cases isOpen <;> simp [refusalAtRest, ht] at h
  | _ => trivial

/-- R163: a command `Refuses` does not list is at rest and has no refusal of its own. -/
theorem admitted_of_not_refuses {i : Instr} {s : State} (h : Refuses i s = false) :
    s.ctrl ≠ .busy ∧ refusalAtRest i s.isOpen = none := by
  cases i with
  | openTransport path timeout =>
    obtain ⟨⟨hb, ho⟩, ht⟩ : (s.ctrl ≠ .busy ∧ s.isOpen = false) ∧ 0 < timeout := by simpa [Refuses] using h
    exact ⟨hb, by simp [refusalAtRest, ho, ht]⟩
  | closeTransport =>
    obtain ⟨hb, ho⟩ : s.ctrl ≠ .busy ∧ s.isOpen = true := by simpa [Refuses] using h
    exact ⟨hb, by simp [refusalAtRest, ho]⟩
  | _ => exact ⟨by simpa [Refuses] using h, rfl⟩

/-! ### What a body can do to the state -/

/-- `t` is `s` but for the transient fields of R29, which stay in R20's bounds, the trace, and the environment's pending
buffers and answers: no field that outlives a command (R20) has changed. -/
structure State.Steady (s t : State) : Prop where
  isOpen : t.isOpen = s.isOpen
  baud : t.baud = s.baud
  timeout : t.timeout = s.timeout
  crc : t.crc = s.crc
  openDrainEcho : t.openDrainEcho = s.openDrainEcho
  commands : t.commands = s.commands
  cnt : s.cnt ≤ 8 → t.cnt ≤ 8
  byteCnt : s.byteCnt ≤ 255 → t.byteCnt ≤ 255

theorem steady_refl (s : State) : s.Steady s := ⟨rfl, rfl, rfl, rfl, rfl, rfl, id, id⟩

theorem steady_advance (s : State) (n : Nat) (tr : List Event) (pin pout : List Byte) :
    s.Steady (s.advance n tr pin pout) := ⟨rfl, rfl, rfl, rfl, rfl, rfl, id, id⟩

/-- Counting within R20's bounds is steady. -/
theorem steady_counts (s : State) (acc : Byte) {cnt byteCnt : Nat} (hc : s.cnt ≤ 8 → cnt ≤ 8)
    (hb : s.byteCnt ≤ 255 → byteCnt ≤ 255) (n : Nat) (tr : List Event) (pin pout : List Byte) :
    s.Steady (State.advance { s with acc := acc, cnt := cnt, byteCnt := byteCnt } n tr pin pout) :=
  ⟨rfl, rfl, rfl, rfl, rfl, rfl, hc, hb⟩

theorem requireOpen_steady {body : State → Result (List Byte)} {s : State} (h : s.Steady (body s).state) :
    s.Steady (requireOpen body s).state := by
  cases ho : s.isOpen with
  | true => rwa [requireOpen_open ho]
  | false => rw [requireOpen_closed ho]; exact steady_refl s

/-- R107: one slot is steady. -/
theorem bitBody_steady (sent : Byte) (s : State) : s.Steady (bitBody sent s).state := by
  obtain ⟨pin, pout, hx⟩ := exchange_spec sent s
  rw [bitBody, slot, hx]
  cases s.slotEcho 0 sent <;> exact steady_advance ..

/-- R107: the eight slots of a byte are steady, on every path. -/
theorem byteTransaction_steady (sent : Nat → Byte) (s : State) : s.Steady (byteTransaction sent s).state := by
  obtain ⟨j, hj, e, he, hlast⟩ := slots_first_failure s sent 8
  obtain ⟨pin, pout, hx⟩ := byteTransaction_spec sent e j s hj he hlast
  rw [hx]
  split
  · exact steady_counts s _ (fun _ => Nat.le_refl 8) id ..
  · exact steady_counts s (cnt := 0 + j) _ (fun _ => by omega) id ..

theorem writeByteBody_state (b : Byte) (s : State) :
    (writeByteBody b s).state = (byteTransaction (writeSlots b) s).state := by
  unfold writeByteBody
  cases byteTransaction (writeSlots b) s with
  | raise t e => rfl
  | ret t u => by_cases h : t.acc = b <;> simp [h, Result.state]

theorem readByteData_state (s : State) : (readByteData s).state = (byteTransaction readSlots s).state := by
  unfold readByteData readByteBody
  cases byteTransaction readSlots s <;> rfl

/-- R106, R124: reading `n` bytes either gives `n` more bytes or ends early with IoError; it is steady, and counts no
more than `n` bytes. -/
theorem readBytesBody_spec (n : Byte) (s : State) : ∃ t, s.Steady t ∧
    (readBytesBody n s = .raise t .io ∨ ∃ d, d.length ≤ 255 ∧ readBytesBody n s = .ret t d) := by
  have hn : byteCount n ≤ 255 := Nat.le_of_lt_succ n.isLt
  obtain ⟨j, hj, e, he, hlast⟩ := slots_first_failure s.startBytes (fun _ => 0xFF) (8 * byteCount n)
  by_cases hjn : j < 8 * byteCount n
  · obtain ⟨acc, pin, pout, hx⟩ := readBytesLoop_fails e (byteCount n) j [] s.startBytes hjn he (hlast hjn)
    exact ⟨_, steady_counts s acc (byteCnt := 0 + j / 8) (fun _ => by omega) (fun _ => by omega) .., .inl hx⟩
  · obtain rfl : j = 8 * byteCount n := by omega
    obtain ⟨acc, cnt, pin, pout, hc, hx⟩ := readBytesLoop_complete e (byteCount n) [] s.startBytes he
    have hcnt : s.cnt ≤ 8 → cnt ≤ 8 := fun h => by rw [hc]; split <;> simp [h]
    refine ⟨_, steady_counts s acc (byteCnt := 0 + byteCount n) hcnt (fun _ => by omega) .., .inr ⟨_, ?_, hx⟩⟩
    simpa [assembledBytes_length] using hn

/-- R123, R126: the reset pulse is steady but for the rate, which it leaves at 115200. -/
theorem resetBody_steady (s : State) : State.Steady { s with baud := .b115200 } (resetBody s).state := by
  obtain ⟨pin, pout, hx⟩ := resetBody_spec s
  have h : State.Steady { s with baud := .b115200 } (setBaud .b115200 ((setBaud .b9600 s).advance
      ((setBaud .b9600 s).slotDraws 0 0xF0) ((setBaud .b9600 s).slotTrace 0 0xF0) pin pout)) :=
    ⟨rfl, rfl, rfl, rfl, rfl, rfl, id, id⟩
  rw [hx]
  split
  · exact h
  · split <;> exact h

/-- R20's column of writers: the states a command's body can end in, said once. It writes no field that outlives the
command, or it is the writer of the ones it writes. -/
inductive BodyEnd : Instr → State → State → Prop
  | steady {i : Instr} {s t : State} (h : s.Steady t) : BodyEnd i s t
  | opened {path : Path} {timeout : Duration} {s t : State}
      (h : State.Steady { s with isOpen := true, baud := .b115200, timeout := some timeout } t) :
      BodyEnd (.openTransport path timeout) s t
  | closed {s t : State} (h : State.Steady { s with isOpen := false } t) : BodyEnd .closeTransport s t
  | restored {s t : State} (h : State.Steady { s with baud := .b115200 } t) : BodyEnd .owReset s t
  | seeded {s t : State} {c : Byte} (h : State.Steady { s with crc := c } t) : BodyEnd .crcInit s t
  | fed {b : Byte} {s t : State} {c : Byte} (h : State.Steady { s with crc := c } t) : BodyEnd (.crcByte b) s t

theorem commandBody_end (i : Instr) (s : State) : BodyEnd i s (commandBody i s).state := by
  cases i with
  | openTransport path timeout =>
    rw [commandBody, openBody_spec]
    split
    · exact .opened (steady_advance ..)
    · exact .steady (steady_advance ..)
  | closeTransport => exact .closed ⟨rfl, rfl, rfl, rfl, rfl, rfl, id, id⟩
  | owReset =>
    cases ho : s.isOpen with
    | true => rw [commandBody, requireOpen_open ho]; exact .restored (resetBody_steady s)
    | false => rw [commandBody, requireOpen_closed ho]; exact .steady (steady_refl s)
  | owWriteBit v => exact .steady (requireOpen_steady (bitBody_steady _ s))
  | owReadBit => exact .steady (requireOpen_steady (bitBody_steady _ s))
  | owWriteByte b => exact .steady (requireOpen_steady (writeByteBody_state b s ▸ byteTransaction_steady _ s))
  | owReadByte => exact .steady (requireOpen_steady (readByteData_state s ▸ byteTransaction_steady _ s))
  | owReadBytes n =>
    refine .steady (requireOpen_steady ?_)
    obtain ⟨t, ht, hx | ⟨d, -, hx⟩⟩ := readBytesBody_spec n s <;> rwa [hx]
  | crcInit => exact .seeded (steady_refl _)
  | crcByte b => exact .fed (steady_refl _)
  | crcRead => exact .steady (steady_refl s)

/-! ### The response -/

/-- The data a body returns, if it returns, fits a response (R33). -/
def Result.DataFits (r : Result (List Byte)) : Prop := ∀ t d, r = .ret t d → d.length ≤ 255

theorem dataFits_ret {t : State} {d : List Byte} (h : d.length ≤ 255) : (Result.ret t d).DataFits := by
  rintro _ _ ⟨⟩
  exact h

theorem dataFits_raise {t : State} {e : BlockError} : (Result.raise t e).DataFits := by
  rintro _ _ ⟨⟩

theorem requireOpen_dataFits {body : State → Result (List Byte)} {s : State} (h : (body s).DataFits) :
    (requireOpen body s).DataFits := by
  cases ho : s.isOpen with
  | true => rwa [requireOpen_open ho]
  | false => rw [requireOpen_closed ho]; exact dataFits_raise

theorem bitBody_dataFits (sent : Byte) (s : State) : (bitBody sent s).DataFits := by
  unfold bitBody
  split
  · exact dataFits_raise
  · exact dataFits_ret (by simp)

theorem writeByteBody_dataFits (b : Byte) (s : State) : (writeByteBody b s).DataFits := by
  unfold writeByteBody
  split
  · exact dataFits_raise
  · split
    · exact dataFits_ret (by simp)
    · exact dataFits_raise

theorem readByteData_dataFits (s : State) : (readByteData s).DataFits := by
  unfold readByteData
  split
  · exact dataFits_raise
  · exact dataFits_ret (by simp)

theorem resetBody_dataFits (s : State) : (resetBody s).DataFits := by
  unfold resetBody
  split
  · exact dataFits_raise
  · split
    · exact dataFits_ret (by simp)
    · exact dataFits_raise

/-- R33: no command returns more than 255 bytes. -/
theorem commandBody_dataFits (i : Instr) (s : State) : (commandBody i s).DataFits := by
  cases i with
  | openTransport path timeout =>
    rw [commandBody, openBody_spec]
    split
    · exact dataFits_ret (by simp)
    · exact dataFits_raise
  | closeTransport => exact dataFits_ret (by simp)
  | owReset => exact requireOpen_dataFits (resetBody_dataFits s)
  | owWriteBit v => exact requireOpen_dataFits (bitBody_dataFits _ s)
  | owReadBit => exact requireOpen_dataFits (bitBody_dataFits _ s)
  | owWriteByte b => exact requireOpen_dataFits (writeByteBody_dataFits b s)
  | owReadByte => exact requireOpen_dataFits (readByteData_dataFits s)
  | owReadBytes n =>
    refine requireOpen_dataFits ?_
    obtain ⟨t, -, hx | ⟨d, hd, hx⟩⟩ := readBytesBody_spec n s <;> rw [hx]
    · exact dataFits_raise
    · exact dataFits_ret hd
  | crcInit => exact dataFits_ret (by simp)
  | crcByte b => exact dataFits_ret (by simp)
  | crcRead => exact dataFits_ret (by simp)

theorem success_legal {d : List Byte} (h : d.length ≤ 255) : (Response.success d).Legal where
  code := ⟨.ok, by decide, rfl⟩
  length := h
  noDataOnError := fun hne => absurd rfl hne
  info := fun _ _ => rfl

/-- R161: INFO is a byte of the error's own only with PRESENCE_ERROR and PROTOCOL_ERROR. -/
theorem failure_legal (e : BlockError) : (Response.failure e).Legal where
  code := ⟨e.status, by cases e <;> exact nofun, rfl⟩
  length := Nat.zero_le _
  noDataOnError := fun _ => rfl
  info := fun hp hq => by
    cases e with
    | presence p => exact absurd rfl hp
    | protocol acc => exact absurd rfl hq
    | _ => rfl

section finish
variable (r : Result (List Byte))

@[simp] theorem finish_isOpen : (finish r).isOpen = r.state.isOpen := by cases r <;> rfl
@[simp] theorem finish_baud : (finish r).baud = r.state.baud := by cases r <;> rfl
@[simp] theorem finish_timeout : (finish r).timeout = r.state.timeout := by cases r <;> rfl
@[simp] theorem finish_crc : (finish r).crc = r.state.crc := by cases r <;> rfl
@[simp] theorem finish_openDrainEcho : (finish r).openDrainEcho = r.state.openDrainEcho := by cases r <;> rfl
@[simp] theorem finish_commands : (finish r).commands = r.state.commands := by cases r <;> rfl
@[simp] theorem finish_cnt : (finish r).cnt = r.state.cnt := by cases r <;> rfl
@[simp] theorem finish_byteCnt : (finish r).byteCnt = r.state.byteCnt := by cases r <;> rfl

/-- R26: a finished command leaves the block at rest. -/
theorem finish_ctrl : (finish r).ctrl = if (finish r).isOpen then .idle else .closed := by cases r <;> rfl

end finish

/-- R33: a finished command has exactly one response, a legal one. -/
theorem finish_response {r : Result (List Byte)} (h : r.DataFits) :
    ∃ q, (finish r).response = some q ∧ q.Legal := by
  cases r with
  | ret t d => exact ⟨_, rfl, success_legal (h t d rfl)⟩
  | raise t e => exact ⟨_, rfl, failure_legal e⟩

/-- Settles O10: an admitted command is its body's end, and every body's data fits a response. -/
theorem admittedCommandsCompleteWithALegalResponse : Obligations.AdmittedCommandsCompleteWithALegalResponse := by
  intro i s h
  obtain ⟨hb, hr⟩ := admitted_of_not_refuses h
  obtain ⟨q, hq, hl⟩ := finish_response (commandBody_dataFits i s.beginCommand)
  exact ⟨_, q, (exec_of_no_refusal hr).trans (runCommand_admitted hb _), hq, hl, finish_ctrl _⟩

/-! ### The persistent fields -/

/-- Settles O14: by the ends a body can have, each of which names the writer of what it writes. -/
theorem persistentFieldsChangeOnlyByTheirWriters : Obligations.PersistentFieldsChangeOnlyByTheirWriters := by
  intro i s t h
  obtain ⟨-, rfl⟩ := exec_next h
  have hend := commandBody_end i s.beginCommand
  generalize commandBody i s.beginCommand = r at hend ⊢
  cases hend with
  | steady h => simp [h.isOpen, h.baud, h.timeout, h.crc, h.openDrainEcho, h.commands]
  | opened h => simp [h.crc, h.openDrainEcho, h.commands]
  | closed h => simp [h.baud, h.timeout, h.crc, h.openDrainEcho, h.commands]
  | restored h => simp [h.isOpen, h.timeout, h.crc, h.openDrainEcho, h.commands]
  | seeded h => simp [h.isOpen, h.baud, h.timeout, h.openDrainEcho, h.commands]
  | fed h => simp [h.isOpen, h.baud, h.timeout, h.openDrainEcho, h.commands]

/-! ### The invariant -/

/-- The part of `State.Inv` that a command keeps inside too, where `CTRL` is `BUSY` and its response is still to
come. -/
structure State.Sound (s : State) : Prop where
  baud : s.isOpen = true → s.baud = .b115200
  timeout : s.isOpen = true → ∃ d, s.timeout = some d ∧ 0 < d
  cnt : s.cnt ≤ 8
  byteCnt : s.byteCnt ≤ 255

theorem sound_of_inv {s : State} (h : s.Inv) : s.beginCommand.Sound := ⟨h.baud, h.timeout, h.cnt, h.byteCnt⟩

theorem steady_sound {s t : State} (h : s.Steady t) (hs : s.Sound) : t.Sound where
  baud := by rw [h.isOpen, h.baud]; exact hs.baud
  timeout := by rw [h.isOpen, h.timeout]; exact hs.timeout
  cnt := h.cnt hs.cnt
  byteCnt := h.byteCnt hs.byteCnt

/-- R24, R25: a well-formed command's body keeps the rate and the timeout of an open transport. -/
theorem bodyEnd_sound {i : Instr} {s t : State} (h : BodyEnd i s t) (hi : i.WellFormed) (hs : s.Sound) : t.Sound := by
  obtain ⟨hbaud, htimeout, hcnt, hbyteCnt⟩ := hs
  cases h with
  | steady h => exact steady_sound h ⟨hbaud, htimeout, hcnt, hbyteCnt⟩
  | opened h => exact steady_sound h ⟨fun _ => rfl, fun _ => ⟨_, rfl, hi⟩, hcnt, hbyteCnt⟩
  | closed h => exact steady_sound h ⟨nofun, nofun, hcnt, hbyteCnt⟩
  | restored h => exact steady_sound h ⟨fun _ => rfl, htimeout, hcnt, hbyteCnt⟩
  | seeded h => exact steady_sound h ⟨hbaud, htimeout, hcnt, hbyteCnt⟩
  | fed h => exact steady_sound h ⟨hbaud, htimeout, hcnt, hbyteCnt⟩

/-- R26, R33: finishing a command brings back the rest of the invariant. -/
theorem finish_inv {r : Result (List Byte)} (hs : r.state.Sound) (hd : r.DataFits) : (finish r).Inv where
  ctrl := finish_ctrl r
  baud := by simpa using hs.baud
  timeout := by simpa using hs.timeout
  cnt := by simpa using hs.cnt
  byteCnt := by simpa using hs.byteCnt
  response := fun q hq => by
    obtain ⟨q', hq', hl⟩ := finish_response hd
    rw [hq'] at hq
    cases hq
    exact hl

theorem exec_keeps_inv {i : Instr} {s t : State} (hs : s.Inv) (h : exec i s = .next t) : t.Inv := by
  obtain ⟨hr, rfl⟩ := exec_next h
  exact finish_inv (bodyEnd_sound (commandBody_end i _) (wellFormed_of_no_refusal hr) (sound_of_inv hs))
    (commandBody_dataFits i _)

theorem execIllegal_keeps_inv {s t : State} (hs : s.Inv) (h : execIllegal s = .next t) : t.Inv := by
  obtain ⟨-, rfl⟩ := runCommand_next h
  exact finish_inv (sound_of_inv hs) dataFits_raise

theorem execRequest_keeps_inv {r : Request} {s t : State} (hs : s.Inv) (h : execRequest r s = .next t) : t.Inv := by
  cases hd : decode r with
  | ok i => exact exec_keeps_inv hs (execRequest_of_decode hd s ▸ h)
  | error e => exact execIllegal_keeps_inv hs (by simpa [execRequest, hd] using h)

/-- R31: a command leaving the interface, and the environment's turn at the buffers, keep the invariant. -/
theorem lineActs_inv {s : State} (hs : s.Inv) (rest : List Request) :
    State.Inv { s.lineActs with commands := rest } :=
  ⟨hs.ctrl, hs.baud, hs.timeout, hs.cnt, hs.byteCnt, hs.response⟩

/-- Settles O7: taking the next command from an empty interface is no change. -/
theorem blockWaitsForACommand : Obligations.BlockWaitsForACommand := by
  intro s h
  simp [step, takeNext, h]

/-- Settles O13: a waiting block stays as it is, and a request, legal word or not, ends where `finish` restores the
invariant. -/
theorem everyStepKeepsTheBlockLegal : Obligations.EveryStepKeepsTheBlockLegal := by
  intro s t hs h
  cases hc : s.commands with
  | nil =>
    rw [blockWaitsForACommand s hc] at h
    cases h
    exact hs
  | cons r rest =>
    rw [step_command hc] at h
    exact execRequest_keeps_inv (lineActs_inv hs rest) h

/-- Settles O12: a closed block owes no rate and no timeout, and has given no response. -/
theorem resetIsLegalBetweenCommands : Obligations.ResetIsLegalBetweenCommands where
  ctrl := rfl
  baud := nofun
  timeout := nofun
  cnt := Nat.zero_le 8
  byteCnt := Nat.zero_le 255
  response := nofun

/-- Settles O11: `State.reset` holds each of R34's values. -/
theorem resetLeavesTheBlockClosed : Obligations.ResetLeavesTheBlockClosed := ⟨rfl, rfl, rfl, rfl, rfl, rfl⟩

/-! ### The step -/

/-- Settles O6: taking the command leaves it the interface and the environment's turn at the buffers. -/
theorem stepRunsTheDecodedCommand : Obligations.StepRunsTheDecodedCommand := by
  intro s r rest i hc hd
  rw [step_command hc, execRequest_of_decode hd, lineActs_eq]

/-- Settles O8: any word is refused in flight, and a run stops at its first refusal. -/
theorem busyBlockRefusesForEver : Obligations.BusyBlockRefusesForEver := by
  intro s r rest hc hb
  have hs : step s = .refused .commandInFlight := by
    rw [step_command hc]
    exact execRequest_busy (s := { s.lineActs with commands := rest }) hb r
  have hcore : core.step s = .refused .commandInFlight := hs
  exact ⟨hs, fun k => by simp only [Host.Core.run, hcore]⟩

/-! ### The pending buffers are never observed -/

/-- `s` with other contents in the pending buffers (R31). -/
def State.withBuffers (s : State) (pin pout : List Byte) : State := { s with pendingIn := pin, pendingOut := pout }

theorem sameButBuffers_withBuffers (s : State) (pin pout : List Byte) : SameButBuffers s (s.withBuffers pin pout) := rfl

theorem eq_withBuffers {s t : State} (h : SameButBuffers s t) : t = s.withBuffers t.pendingIn t.pendingOut := h.symm

/-- A body's end with other contents in the pending buffers. -/
def Result.withBuffers {α : Type} (r : Result α) (pin pout : List Byte) : Result α :=
  r.andFinally fun s => s.withBuffers pin pout

theorem withBuffers_own {α : Type} (r : Result α) : r.withBuffers r.state.pendingIn r.state.pendingOut = r := by
  cases r <;> rfl

theorem finish_withBuffers (r : Result (List Byte)) (pin pout : List Byte) :
    finish (r.withBuffers pin pout) = (finish r).withBuffers pin pout := by
  cases r <;> rfl

/-- A body that does the same whatever is pending ends alike but for the buffers. -/
theorem withBuffers_of_eq {α : Type} {r r' : Result α} (h : r' = r) : ∃ pin' pout', r' = r.withBuffers pin' pout' :=
  ⟨_, _, h.trans (withBuffers_own r).symm⟩

/-- The gate passes the body's indifference on. -/
theorem requireOpen_withBuffers {α : Type} {body : State → Result α} {s : State} {pin pout : List Byte}
    (h : ∃ pin' pout', body (s.withBuffers pin pout) = (body s).withBuffers pin' pout') :
    ∃ pin' pout', requireOpen body (s.withBuffers pin pout) = (requireOpen body s).withBuffers pin' pout' := by
  cases ho : s.isOpen with
  | true => rwa [requireOpen_open ho, requireOpen_open (s := s.withBuffers pin pout) ho]
  | false =>
    rw [requireOpen_closed ho, requireOpen_closed (s := s.withBuffers pin pout) ho]
    exact ⟨pin, pout, rfl⟩

/-- R50, R100: a slot begins by clearing the buffers, so what was pending before it makes no difference at all. -/
theorem exchange_withBuffers (sent : Byte) (s : State) (pin pout : List Byte) :
    exchange sent (s.withBuffers pin pout) = exchange sent s := rfl

theorem bitBody_withBuffers (sent : Byte) (s : State) (pin pout : List Byte) :
    bitBody sent (s.withBuffers pin pout) = bitBody sent s := by
  simp only [bitBody, slot, exchange_withBuffers]

theorem byteTransaction_withBuffers (sent : Nat → Byte) (s : State) (pin pout : List Byte) :
    byteTransaction sent (s.withBuffers pin pout) = byteTransaction sent s := rfl

theorem readByteBody_withBuffers (s : State) (pin pout : List Byte) :
    readByteBody (s.withBuffers pin pout) = readByteBody s := by
  simp only [readByteBody, byteTransaction_withBuffers]

theorem resetBody_withBuffers (s : State) (pin pout : List Byte) :
    resetBody (s.withBuffers pin pout) = resetBody s := rfl

/-- R124: with no byte to read nothing is cleared, so the buffers stay; otherwise the first slot clears them. -/
theorem readBytesBody_withBuffers (n : Byte) (s : State) (pin pout : List Byte) :
    ∃ pin' pout', readBytesBody n (s.withBuffers pin pout) = (readBytesBody n s).withBuffers pin' pout' := by
  unfold readBytesBody
  cases byteCount n with
  | zero => exact ⟨pin, pout, rfl⟩
  | succ k => exact withBuffers_of_eq rfl

/-- R120: a failed OPEN leaves the buffers, a successful one takes the new transport's. -/
theorem openBody_withBuffers (path : Path) (timeout : Duration) (s : State) (pin pout : List Byte) :
    ∃ pin' pout', openBody path timeout (s.withBuffers pin pout)
      = (openBody path timeout s).withBuffers pin' pout' := by
  have ha : (s.withBuffers pin pout).answerAt 0 (.topen path) = s.answerAt 0 (.topen path) := rfl
  rw [openBody_spec, openBody_spec, ha]
  split
  · exact withBuffers_of_eq rfl
  · exact ⟨pin, pout, rfl⟩

/-- R31: no body looks at what was pending when the command began. -/
theorem commandBody_withBuffers (i : Instr) (s : State) (pin pout : List Byte) :
    ∃ pin' pout', commandBody i (s.withBuffers pin pout) = (commandBody i s).withBuffers pin' pout' := by
  cases i with
  | openTransport path timeout => exact openBody_withBuffers path timeout s pin pout
  | closeTransport => exact ⟨pin, pout, rfl⟩
  | owReset => exact requireOpen_withBuffers (withBuffers_of_eq (resetBody_withBuffers s pin pout))
  | owWriteBit v => exact requireOpen_withBuffers (withBuffers_of_eq (bitBody_withBuffers _ s pin pout))
  | owReadBit => exact requireOpen_withBuffers (withBuffers_of_eq (bitBody_withBuffers _ s pin pout))
  | owWriteByte b =>
    exact requireOpen_withBuffers (withBuffers_of_eq (by simp only [writeByteBody, byteTransaction_withBuffers]))
  | owReadByte =>
    exact requireOpen_withBuffers (withBuffers_of_eq (by simp only [readByteData, readByteBody_withBuffers]))
  | owReadBytes n => exact requireOpen_withBuffers (readBytesBody_withBuffers n s pin pout)
  | crcInit => exact ⟨pin, pout, rfl⟩
  | crcByte b => exact ⟨pin, pout, rfl⟩
  | crcRead => exact ⟨pin, pout, rfl⟩

/-- R163: whether and why a command is refused does not depend on the buffers. -/
theorem exec_refused_withBuffers {i : Instr} {s : State} {r : Refusal} (h : exec i s = .refused r)
    (pin pout : List Byte) : exec i (s.withBuffers pin pout) = .refused r := by
  by_cases hb : s.ctrl = .busy
  · rw [exec_busy hb] at h
    rw [exec_busy (s := s.withBuffers pin pout) hb, h]
  · cases hr : refusalAtRest i s.isOpen with
    | some q =>
      rw [exec_of_refusal hr] at h
      exact (exec_of_refusal (s := s.withBuffers pin pout) hr).trans h
    | none =>
      rw [exec_of_no_refusal hr, runCommand_admitted hb] at h
      cases h

/-- R31: a command that goes on goes on alike, but for the buffers it leaves. -/
theorem exec_next_withBuffers {i : Instr} {s t : State} (h : exec i s = .next t) (pin pout : List Byte) :
    ∃ pin' pout', exec i (s.withBuffers pin pout) = .next (t.withBuffers pin' pout') := by
  obtain ⟨hr, rfl⟩ := exec_next h
  rw [exec_of_no_refusal hr] at h
  have hb := (runCommand_next h).1
  obtain ⟨pin', pout', hx⟩ := commandBody_withBuffers i s.beginCommand pin pout
  refine ⟨pin', pout', ?_⟩
  rw [exec_of_no_refusal (s := s.withBuffers pin pout) hr, runCommand_admitted (s := s.withBuffers pin pout) hb,
    ← finish_withBuffers, ← hx]
  rfl

/-- Settles O45: two states alike but for the buffers are one state with two contents of them, and no body looks at
those. -/
theorem staleBytesAreNeverObserved : Obligations.StaleBytesAreNeverObserved := by
  intro i s s' hs
  rw [eq_withBuffers hs]
  refine ⟨fun r h => exec_refused_withBuffers h _ _, fun t h => ?_⟩
  obtain ⟨pin', pout', hx⟩ := exec_next_withBuffers h s'.pendingIn s'.pendingOut
  exact ⟨_, hx, sameButBuffers_withBuffers t pin' pout', rfl, rfl⟩

end Sys2Proof.Machine
end

section
/-!
The memory family (spec/20_memory.md): the block's only traffic is the transport's. What an `Rx` takes, what an echo can
be, and which primitives a command that succeeds has performed.
-/

namespace Sys2Proof.Machine

/-! ### What an `Rx` takes -/

/-- R42: an `Rx` finds no byte where none is pending and none arrives. -/
theorem received_eq_nil_iff (s : State) (sent : Byte) : s.received sent = []
    ↔ s.pendingIn = [] ∧ (s.answerAt 0 (.rx s.baud s.timeout sent)).arrived = [] := by
  simp [State.received]

/-- Settles O36: an `Rx` splits what it finds into a head, which it returns and logs, and a tail, which it leaves. -/
theorem receiveTakesAtMostOneByte : Obligations.ReceiveTakesAtMostOneByte := by
  intro s sent
  exact ⟨rfl, rfl, List.head?_eq_none_iff.trans (received_eq_nil_iff s sent), rfl⟩

/-! ### What an echo can be -/

/-- R43: on an open-drain line no bit is 1 that was sent as 0. -/
theorem lineByte_openDrain (sent x : Byte) : lineByte true sent x &&& ~~~sent = 0 := by
  rw [lineByte, if_pos rfl, BitVec.and_assoc, BitVec.and_not_self]
  exact BitVec.and_zero

/-- R42, R43: an echo is a byte the environment put on the line after the byte sent. -/
theorem lineByte_of_slotEcho {s : State} {j : Nat} {sent e : Byte} (h : s.slotEcho j sent = some e) :
    ∃ x, lineByte s.openDrainEcho sent x = e := by
  unfold State.slotEcho at h
  split at h
  · obtain ⟨x, -, hx⟩ := List.mem_map.1 (List.mem_of_head? h)
    exact ⟨x, hx⟩
  · cases h

/-- The environment's answers to one exchange that gets its byte out and hears `e`, or nothing. -/
def answersHearing (e : Option Byte) : List Answer := [⟨true, [], []⟩, ⟨true, e.toList, []⟩]

/-- R43: with the line unconstrained those answers are heard as they are, whatever byte was sent. -/
theorem slotEcho_answersHearing {s : State} (h : s.openDrainEcho = false) (sent : Byte) (e : Option Byte) :
    State.slotEcho { s with env := answersHearing e } 0 sent = e := by
  have hline : lineByte s.openDrainEcho sent = id := by
    funext x
    simp [lineByte, h]
  simp [State.slotEcho, State.slotSent, State.slotHeard, State.answerAt, answersHearing, hline]

/-- Settles O37: an open-drain line masks every byte that arrives, and without it the environment's next two answers
make any echo. -/
theorem echoIsConstrainedOnlyByOpenDrain : Obligations.EchoIsConstrainedOnlyByOpenDrain := by
  refine ⟨fun s j sent e ho h => ?_, fun s sent e ho => ⟨_, slotEcho_answersHearing ho sent e⟩⟩
  obtain ⟨x, rfl⟩ := lineByte_of_slotEcho h
  rw [ho]
  exact lineByte_openDrain sent x

/-! ### A command that answers OK is a body that returned -/

/-- R160, R161: a failure never reports OK. -/
theorem failure_ne_ok (e : BlockError) (d : List Byte) : Response.failure e ≠ ⟨0, 0x00, d⟩ := by
  cases e <;> exact nofun

/-- R33: the response is OK only where the body returned, and its data is what the body returned. -/
theorem finish_ok {r : Result (List Byte)} {d : List Byte} (h : (finish r).response = some ⟨0, 0x00, d⟩) :
    ∃ u, r = .ret u d := by
  cases r with
  | ret u d' =>
    cases h
    exact ⟨u, rfl⟩
  | raise u e => exact absurd (Option.some.inj h) (failure_ne_ok e d)

/-- A command that answers OK ends where its body returned. -/
theorem exec_ok {i : Instr} {s t : State} {d : List Byte} (h : exec i s = .next t)
    (hr : t.response = some ⟨0, 0x00, d⟩) : ∃ u, commandBody i s.beginCommand = .ret u d ∧ t = u.returnData d := by
  obtain ⟨-, rfl⟩ := exec_next h
  obtain ⟨u, hu⟩ := finish_ok hr
  exact ⟨u, hu, by rw [hu, finish_ret]⟩

/-- R125: behind the gate a body returns only on an open transport, and returns what it returns without the gate. -/
theorem requireOpen_ret {α : Type} {body : State → Result α} {s t : State} {a : α}
    (h : requireOpen body s = .ret t a) : body s = .ret t a := by
  cases ho : s.isOpen with
  | true => rwa [requireOpen_open ho] at h
  | false => rw [requireOpen_closed ho] at h; cases h

/-! ### The trace of a body that returned -/

/-- `t` has performed exactly `n` complete slots since `s` (R100). -/
def State.SlotsSince (s : State) (n : Nat) (t : State) : Prop := ∃ sent e, t.trace = s.trace ++ slotEvents sent e n

/-- R100: an exchange that gave an echo is one complete slot. -/
theorem exchange_ret {sent e : Byte} {s t : State} (h : exchange sent s = .ret t e) : s.SlotsSince 1 t := by
  obtain ⟨pin, pout, hx⟩ := exchange_spec sent s
  rw [h] at hx
  split at hx
  · rename_i e' he
    cases hx
    exact ⟨fun _ => sent, fun _ => e, by rw [advance_trace, (slot_of_echo he).1]; rfl⟩
  · cases hx

theorem bitBody_ret {sent : Byte} {s t : State} {d : List Byte} (h : bitBody sent s = .ret t d) :
    s.SlotsSince 1 t := by
  unfold bitBody slot at h
  split at h
  · cases h
  · rename_i he
    cases h
    exact exchange_ret he

/-- R104 to R106: a byte transaction that returned has completed all eight slots. -/
theorem byteTransaction_ret {sent : Nat → Byte} {s t : State} {u : Unit} (h : byteTransaction sent s = .ret t u) :
    s.SlotsSince 8 t := by
  obtain ⟨j, hj, e, he, hlast⟩ := slots_first_failure s sent 8
  obtain ⟨pin, pout, hx⟩ := byteTransaction_spec sent e j s hj he hlast
  rw [h] at hx
  split at hx
  · cases hx
    exact ⟨sent, e, rfl⟩
  · cases hx

theorem writeByteBody_ret {b : Byte} {s t : State} {d : List Byte} (h : writeByteBody b s = .ret t d) :
    s.SlotsSince 8 t := by
  unfold writeByteBody at h
  split at h
  · cases h
  · rename_i hx
    split at h
    · cases h
      exact byteTransaction_ret hx
    · cases h

theorem readByteData_ret {s t : State} {d : List Byte} (h : readByteData s = .ret t d) : s.SlotsSince 8 t := by
  unfold readByteData readByteBody at h
  split at h
  · cases h
  · rename_i hb
    split at hb
    · cases hb
    · rename_i hx
      cases hb
      cases h
      exact byteTransaction_ret hx

/-- R106, R124: a byte-sequence read that returned has completed the eight slots of every byte. -/
theorem readBytesBody_ret {n : Byte} {s t : State} {d : List Byte} (h : readBytesBody n s = .ret t d) :
    s.SlotsSince (8 * n.toNat) t := by
  obtain ⟨j, hj, e, he, hlast⟩ := slots_first_failure s.startBytes (fun _ => 0xFF) (8 * byteCount n)
  rw [readBytesBody] at h
  by_cases hjn : j < 8 * byteCount n
  · obtain ⟨acc, pin, pout, hx⟩ := readBytesLoop_fails e (byteCount n) j [] s.startBytes hjn he (hlast hjn)
    rw [h] at hx
    cases hx
  · obtain rfl : j = 8 * byteCount n := by omega
    obtain ⟨acc, cnt, pin, pout, -, hx⟩ := readBytesLoop_complete e (byteCount n) [] s.startBytes he
    rw [h] at hx
    cases hx
    exact ⟨fun _ => 0xFF, e, rfl⟩

/-- R123, R126: a reset that returned is one complete slot between the two SetBauds. -/
theorem resetBody_ret {s t : State} {d : List Byte} (h : resetBody s = .ret t d) :
    ∃ e, t.trace = s.trace ++ [.setBaud .b9600, .clear, .tx 0xF0 true, .rx (some e), .setBaud .b115200] := by
  obtain ⟨pin, pout, hx⟩ := resetBody_spec s
  rw [h] at hx
  dsimp only at hx
  split at hx
  · cases hx
  · rename_i e he
    split at hx
    · cases hx
      exact ⟨e, by simp only [setBaud_trace, advance_trace, (slot_of_echo he).1, List.append_assoc]; rfl⟩
    · cases hx

theorem openBody_ret {path : Path} {timeout : Duration} {s t : State} {d : List Byte}
    (h : openBody path timeout s = .ret t d) : t.trace = s.trace ++ [.topen path true, .setBaud .b115200] := by
  rw [openBody_spec] at h
  split at h
  · cases h
    rfl
  · cases h

/-! ### The traffic of a trace -/

/-- The traffic of `n` complete slots (R48, R100): each sends, receives and clears once. -/
def slotTraffic (n : Nat) : Traffic := { tx := n, rx := n, setBaud := 0, clear := n }

theorem traffic_slotEvents (sent e : Nat → Byte) (n : Nat) : traffic (slotEvents sent e n) = slotTraffic n := by
  induction n generalizing sent e with
  | zero => rfl
  | succ n ih =>
    have hrest := ih (fun i => sent (i + 1)) (fun i => e (i + 1))
    simp only [traffic, slotTraffic, Traffic.mk.injEq, txCount, rxCount, setBaudCount, clearCount] at hrest ⊢
    simp [slotEvents_succ, hrest]

/-- The slots performed since a command began are its whole traffic. -/
theorem traffic_of_slotsSince {s t : State} {n : Nat} (h : s.beginCommand.SlotsSince n t) :
    traffic t.trace = slotTraffic n := by
  obtain ⟨sent, e, ht⟩ := h
  rw [ht, beginCommand_trace, List.nil_append, traffic_slotEvents]

/-- R48, each row of its table: a body that returned has performed its command's traffic. -/
theorem commandBody_ret_traffic {i : Instr} {s t : State} {d : List Byte}
    (h : commandBody i s.beginCommand = .ret t d) : traffic t.trace = successTraffic i := by
  cases i with
  | openTransport path timeout => rw [openBody_ret h]; rfl
  | closeTransport => cases h; rfl
  | owReset =>
    obtain ⟨e, ht⟩ := resetBody_ret (requireOpen_ret h)
    rw [ht]
    rfl
  | owWriteBit v => exact traffic_of_slotsSince (bitBody_ret (requireOpen_ret h))
  | owReadBit => exact traffic_of_slotsSince (bitBody_ret (requireOpen_ret h))
  | owWriteByte b => exact traffic_of_slotsSince (writeByteBody_ret (requireOpen_ret h))
  | owReadByte => exact traffic_of_slotsSince (readByteData_ret (requireOpen_ret h))
  | owReadBytes n => exact traffic_of_slotsSince (readBytesBody_ret (requireOpen_ret h))
  | crcInit => cases h; rfl
  | crcByte b => cases h; rfl
  | crcRead => cases h; rfl

/-- Settles O38: an OK response means the command's body returned, and each body returns only with all its primitives
performed. -/
theorem successfulCommandsHaveFixedTraffic : Obligations.SuccessfulCommandsHaveFixedTraffic := by
  intro i s t d h hr
  obtain ⟨u, hu, rfl⟩ := exec_ok h hr
  rw [returnData_trace]
  exact commandBody_ret_traffic hu

end Sys2Proof.Machine
end

section
/-!
The encoding (spec/30_encoding.md): the decoder and the encoder are inverse to each other, a row of the opcode map seen
field by field, and the three kinds of illegal words.
-/

namespace Sys2Proof.Machine

/-! ### The decoder and the encoder -/

/-- R60: OPEN takes its side arguments from the request; no other command has any. -/
def TakesSideArgs (i : Instr) (r : Request) : Prop :=
  ∀ path timeout, i = .openTransport path timeout → path = r.path ∧ timeout = r.timeout

/-- R61: the bit of OW_WRITE_BIT is read back from its operand byte. -/
theorem bitOperand_setWidth (v : BitVec 1) : bitOperand (v.setWidth 8) = .ok (.owWriteBit v) := by
  revert v
  decide

/-- R60 to R62: a request decodes to a command exactly when its word's fields are the command's `OPC` and `OPD` and,
for OPEN, its side arguments are the command's. -/
theorem decode_ok_iff {r : Request} {i : Instr} :
    decode r = .ok i ↔ opcField r.word = i.opc ∧ opdField r.word = i.opd ∧ TakesSideArgs i r := by
  refine ⟨decode_ok, fun ⟨hopc, hopd, hargs⟩ => ?_⟩
  unfold decode
  rw [hopc, hopd]
  cases i with
  | openTransport path timeout =>
    obtain ⟨rfl, rfl⟩ := hargs path timeout rfl
    rfl
  | owWriteBit v => exact bitOperand_setWidth v
  | _ => rfl

/-- Settles O2: the encoder writes the command's two fields into the word, and OPEN's side arguments beside it. -/
theorem decodeOfEncodeIsIdentity : Obligations.DecodeOfEncodeIsIdentity := by
  intro i
  refine decode_ok_iff.2 ⟨opcField_commandWord _ _, opdField_commandWord _ _, ?_⟩
  rintro path timeout rfl
  exact ⟨rfl, rfl⟩

/-- Settles O3: the word is its two fields, and a command that decodes has them both. -/
theorem encodeOfDecodeIsTheWord : Obligations.EncodeOfDecodeIsTheWord := fun _ _ => encode_word_of_decode

/-! ### The rows of the opcode map -/

theorem and_byte_mask (b : Byte) : b &&& 0xFF = b := BitVec.and_allOnes

/-- R62: a word selects a row with an unmasked opcode when it has that `OPC` and its masked operand is zero. -/
theorem selects_iff {w : Word} {opc mask : Byte} :
    w &&& commandWord 0xFF mask = commandWord opc 0 ↔ opcField w = opc ∧ opdField w &&& mask = 0 := by
  rw [← commandWord_fields (w &&& _), commandWord_inj]
  have hopc : opcField (w &&& commandWord 0xFF mask) = opcField w &&& opcField (commandWord 0xFF mask) :=
    BitVec.extractLsb'_and
  have hopd : opdField (w &&& commandWord 0xFF mask) = opdField w &&& opdField (commandWord 0xFF mask) :=
    BitVec.extractLsb'_and
  rw [hopc, hopd, opcField_commandWord, opdField_commandWord, and_byte_mask]

/-- R62: where the masked operand is zero exactly if the operand is the command's, the row is the command's. -/
theorem selects_iff_decode {r : Request} {i : Instr} {opc mask : Byte} (hopc : i.opc = opc)
    (hargs : TakesSideArgs i r) (hopd : opdField r.word &&& mask = 0 ↔ opdField r.word = i.opd) :
    r.word &&& commandWord 0xFF mask = commandWord opc 0 ↔ decode r = .ok i := by
  rw [← hopc, selects_iff, hopd, decode_ok_iff, and_iff_left hargs]

/-- R62: a row with the mask `0xFFFF` selects an operand-less command. -/
theorem selects_operandless {r : Request} {i : Instr} (opc : Byte) (hopc : i.opc = opc)
    (hargs : TakesSideArgs i r) (hopd : i.opd = 0) : r.word &&& 0xFFFF = commandWord opc 0 ↔ decode r = .ok i :=
  selects_iff_decode (mask := 0xFF) hopc hargs (by rw [hopd, and_byte_mask])

/-- R62: a row with the mask `0xFF00` selects a command whose operand is the whole `OPD`. -/
theorem selects_byte {r : Request} {i : Instr} (opc : Byte) (hopc : i.opc = opc)
    (hargs : TakesSideArgs i r) (hopd : i.opd = opdField r.word) :
    r.word &&& 0xFF00 = commandWord opc 0 ↔ decode r = .ok i :=
  selects_iff_decode (mask := 0x00) hopc hargs (by simp [hopd])

/-- R61: masked with `0xFE`, an operand byte is zero exactly if it is its bit 0, widened. -/
theorem and_bit_mask (opd : Byte) : opd &&& 0xFE = 0 ↔ opd = (opd.extractLsb' 0 1).setWidth 8 := by
  revert opd
  decide

/-- R60: the lowest bits of `OPD` are the word's. -/
theorem opdField_extractLsb' (w : Word) {start len : Nat} (h : start + len ≤ 8) :
    (opdField w).extractLsb' start len = w.extractLsb' start len := by
  ext i hi
  have hlow : start + i < 8 := by omega
  simp [opdField, hlow]

/-- R62: the row with the mask `0xFFFE` selects OW_WRITE_BIT with bit 0 of the word. -/
theorem selects_bit (r : Request) :
    r.word &&& 0xFFFE = 0x1100 ↔ decode r = .ok (.owWriteBit (r.word.extractLsb' 0 1)) := by
  rw [← opdField_extractLsb' r.word (by decide)]
  exact selects_iff_decode (opc := 0x11) (mask := 0xFE) rfl nofun (and_bit_mask _)

/-- Settles O4: row by row, from the three kinds of mask. -/
theorem opcodeMapSelectsTheCommand : Obligations.OpcodeMapSelectsTheCommand := fun r =>
  ⟨selects_operandless 0x01 rfl (by rintro _ _ ⟨⟩; exact ⟨rfl, rfl⟩) rfl,
    selects_operandless 0x02 rfl nofun rfl,
    selects_operandless 0x10 rfl nofun rfl,
    selects_bit r,
    selects_operandless 0x12 rfl nofun rfl,
    selects_byte 0x13 rfl nofun rfl,
    selects_operandless 0x14 rfl nofun rfl,
    selects_byte 0x15 rfl nofun rfl,
    selects_operandless 0x20 rfl nofun rfl,
    selects_byte 0x21 rfl nofun rfl,
    selects_operandless 0x22 rfl nofun rfl⟩

/-- R62: a word that selects a row decodes. -/
theorem decode_of_matchesRow {r : Request} (h : MatchesRow r.word) : ∃ i, decode r = .ok i := by
  obtain ⟨hopen, hclose, hreset, hwriteBit, hreadBit, hwriteByte, hreadByte, hreadBytes, hinit, hbyte, hread⟩ :=
    opcodeMapSelectsTheCommand r
  obtain ⟨row, hmem, hrow⟩ := h
  simp only [opcodeMap, List.mem_cons, List.not_mem_nil, or_false] at hmem
  rcases hmem with rfl | rfl | rfl | rfl | rfl | rfl | rfl | rfl | rfl | rfl | rfl
  exacts [⟨_, hopen.1 hrow⟩, ⟨_, hclose.1 hrow⟩, ⟨_, hreset.1 hrow⟩, ⟨_, hwriteBit.1 hrow⟩, ⟨_, hreadBit.1 hrow⟩,
    ⟨_, hwriteByte.1 hrow⟩, ⟨_, hreadByte.1 hrow⟩, ⟨_, hreadBytes.1 hrow⟩, ⟨_, hinit.1 hrow⟩, ⟨_, hbyte.1 hrow⟩,
    ⟨_, hread.1 hrow⟩]

theorem decodes_iff_matchesRow (r : Request) : (∃ i, decode r = .ok i) ↔ MatchesRow r.word :=
  ⟨fun ⟨_, h⟩ => matchesRow_of_decode h, decode_of_matchesRow⟩

/-! ### Illegal words -/

/-- The opcodes of R62. -/
def assignedOpcodes : List Byte := [0x01, 0x02, 0x10, 0x11, 0x12, 0x13, 0x14, 0x15, 0x20, 0x21, 0x22]

/-- The opcodes of R62 whose command has no operand. -/
def operandlessOpcodes : List Byte := [0x01, 0x02, 0x10, 0x12, 0x14, 0x20, 0x22]

/-- The opcodes of R62 whose command takes the whole `OPD`. -/
def byteOpcodes : List Byte := [0x13, 0x15, 0x21]

theorem opcode_kinds {opc : Byte} (h : opc ∈ assignedOpcodes) :
    opc ∈ operandlessOpcodes ∨ opc = 0x11 ∨ opc ∈ byteOpcodes := by
  revert opc
  decide

theorem decode_operandless {r : Request} (h : opcField r.word ∈ operandlessOpcodes) :
    ∃ i, decode r = operandless (opdField r.word) i := by
  simp only [operandlessOpcodes, List.mem_cons, List.not_mem_nil, or_false] at h
  unfold decode
  rcases h with h | h | h | h | h | h | h <;> rw [h] <;> exact ⟨_, rfl⟩

theorem decode_bit {r : Request} (h : opcField r.word = 0x11) : decode r = bitOperand (opdField r.word) := by
  unfold decode
  rw [h]
  rfl

theorem decode_byte {r : Request} (h : opcField r.word ∈ byteOpcodes) : ∃ i, decode r = .ok i := by
  simp only [byteOpcodes, List.mem_cons, List.not_mem_nil, or_false] at h
  unfold decode
  rcases h with h | h | h <;> rw [h] <;> exact ⟨_, rfl⟩

theorem decode_unassigned {r : Request} (h : opcField r.word ∉ assignedOpcodes) :
    decode r = .error .unassignedOpcode := by
  simp only [assignedOpcodes, List.mem_cons, List.not_mem_nil, or_false, not_or] at h
  simp only [decode, h, if_false]

theorem operandless_error {opd : Byte} {i : Instr} {e : Illegal} :
    operandless opd i = .error e ↔ opd ≠ 0 ∧ e = .operandNotZero := by
  by_cases hz : opd = 0
  · simp [operandless, hz]
  · rw [operandless, if_neg hz, Except.error.injEq, eq_comm, and_iff_right hz]

theorem bitOperand_error {opd : Byte} {e : Illegal} :
    bitOperand opd = .error e ↔ opd.extractLsb' 1 7 ≠ 0 ∧ e = .writeBitOperand := by
  by_cases hz : opd.extractLsb' 1 7 = 0
  · simp [bitOperand, hz]
  · rw [bitOperand, if_neg hz, Except.error.injEq, eq_comm, and_iff_right hz]

/-- R63: the words that are illegal for each of its reasons. -/
def IllegalWord : Illegal → Word → Prop
  | .unassignedOpcode, w => opcField w ∉ assignedOpcodes
  | .writeBitOperand, w => opcField w = 0x11 ∧ (opdField w).extractLsb' 1 7 ≠ 0
  | .operandNotZero, w => opcField w ∈ operandlessOpcodes ∧ opdField w ≠ 0

/-- R63: the decoder rejects a word for the reason the word gives. -/
theorem decode_error_iff {r : Request} {e : Illegal} : decode r = .error e ↔ IllegalWord e r.word := by
  constructor
  · intro h
    by_cases hassigned : opcField r.word ∈ assignedOpcodes
    · rcases opcode_kinds hassigned with hopc | hopc | hopc
      · obtain ⟨i, hi⟩ := decode_operandless hopc
        obtain ⟨hz, rfl⟩ := operandless_error.1 (hi ▸ h)
        exact ⟨hopc, hz⟩
      · obtain ⟨hz, rfl⟩ := bitOperand_error.1 (decode_bit hopc ▸ h)
        exact ⟨hopc, hz⟩
      · obtain ⟨i, hi⟩ := decode_byte hopc
        rw [hi] at h
        cases h
    · rw [decode_unassigned hassigned] at h
      cases h
      exact hassigned
  · intro h
    cases e with
    | unassignedOpcode => exact decode_unassigned h
    | writeBitOperand =>
      obtain ⟨hopc, hz⟩ := h
      rw [decode_bit hopc, bitOperand_error]
      exact ⟨hz, rfl⟩
    | operandNotZero =>
      obtain ⟨hopc, hz⟩ := h
      obtain ⟨i, hi⟩ := decode_operandless hopc
      rw [hi, operandless_error]
      exact ⟨hz, rfl⟩

/-- R63: a word selects no row exactly if it is illegal for one of the reasons. -/
theorem not_matchesRow_iff (w : Word) : ¬ MatchesRow w ↔ ∃ e, IllegalWord e w := by
  have hw := decodes_iff_matchesRow ⟨w, [], 0⟩
  simp only [← hw, ← decode_error_iff (r := ⟨w, [], 0⟩)]
  cases decode ⟨w, [], 0⟩ <;> simp

theorem exists_illegalWord {w : Word} : (∃ e, IllegalWord e w) ↔ IllegalWord .unassignedOpcode w
    ∨ IllegalWord .writeBitOperand w ∨ IllegalWord .operandNotZero w := by
  constructor
  · rintro ⟨e, he⟩
    cases e with
    | unassignedOpcode => exact .inl he
    | writeBitOperand => exact .inr (.inl he)
    | operandNotZero => exact .inr (.inr he)
  · rintro (h | h | h) <;> exact ⟨_, h⟩

/-- R63: an illegal word ends as a command that raised ILLEGAL_COMMAND, whatever `OPEN` is. -/
theorem step_illegal {s : State} {r : Request} {rest : List Request} (hc : s.commands = r :: rest)
    (hb : s.ctrl ≠ .busy) (hr : ¬ MatchesRow r.word) :
    step s = .next (State.raiseError (State.beginCommand { s.lineActs with commands := rest }) .illegalCommand) := by
  rw [step_command hc, execRequest_of_not_matchesRow hr, execIllegal,
    runCommand_admitted (s := { s.lineActs with commands := rest }) hb, finish_raise]

/-- Settles O5: the decoder's three reasons are R63's, and the step of an illegal word is its error alone. -/
theorem illegalWordsOnlyReportIllegalCommand : Obligations.IllegalWordsOnlyReportIllegalCommand := by
  refine ⟨decodes_iff_matchesRow, fun w => ?_, fun s r rest hc hb hr => ?_⟩
  · rw [not_matchesRow_iff, exists_illegalWord, ← opdField_extractLsb' w (by decide : 1 + 7 ≤ 8)]
    rfl
  · rw [step_illegal hc hb hr, lineActs_eq]
    exact ⟨_, _, rfl⟩

/-! ### Example words and pseudo-instructions -/

/-- Settles O1: the decoder evaluates to the command each word of the spec's examples stands for. -/
theorem specExampleWordsDecode : Obligations.SpecExampleWordsDecode := by
  unfold Obligations.SpecExampleWordsDecode
  decide

/-- Settles O49: each expansion is R65's list as it stands. -/
theorem pseudoInstructionsExpand : Obligations.PseudoInstructionsExpand := ⟨fun _ => rfl, fun _ => rfl, rfl⟩

end Sys2Proof.Machine
end

section
/-!
The CRC-8 generator (spec/40_crc8.md): the bit step bit by bit, the byte step as a linear bijection, the residue laws,
and what the three CRC commands do to the block, one at a time and in sequence.
-/

namespace Sys2Proof.Machine

/-! ### The bit step -/

/-- R80: bit `i` of the bit step is the next bit of the register, mixed where the mask has a bit. -/
theorem crcBit_getLsbD (c d : Byte) (i : Nat) : (crcBit c d).getLsbD i
    = (c.getLsbD (1 + i) ^^ ((c.getLsbD 0 ^^ d.getLsbD 0) && Config.crcPolyReflected.getLsbD i)) := by
  rw [crcBit_eq, BitVec.getLsbD_xor, BitVec.getLsbD_ushiftRight]
  cases c.getLsbD 0 ^^ d.getLsbD 0 <;> simp

/-- Settles O19: the mask `0x8C` has bits 7, 3 and 2, and there is no bit 8 to shift in. -/
theorem crcBitStepMeetsItsBitEquations : Obligations.CrcBitStepMeetsItsBitEquations := by
  intro c d
  refine ⟨rfl, ?_⟩
  simp only [crcBit_getLsbD]
  simp [Config.crcPolyReflected]

/-! ### The byte step -/

theorem zext8_getLsbD_zero (v : Bool) : (zext8 v).getLsbD 0 = v := by
  cases v <;> rfl

/-- R81: step `i` takes bit `i` of the input byte, for any number of steps. -/
theorem crcSteps_eq_foldl (n : Nat) (c b : Byte) :
    crcSteps n c b = (List.range n).foldl (fun c i => crcBit c (zext8 (byteBit b i))) c := by
  induction n generalizing c b with
  | zero => rfl
  | succ n ih =>
    have hfirst : crcBit c b = crcBit c (zext8 (byteBit b 0)) :=
      crcBit_congr c (zext8_getLsbD_zero _).symm
    have hrest (i : Nat) : byteBit (b >>> 1) i = byteBit b (i + 1) := by
      simp [byteBit, Nat.add_comm]
    simp only [crcSteps, ih, List.range_succ_eq_map, List.foldl_cons, List.foldl_map, hfirst, hrest]

/-- Settles O20: the eight steps of a byte are a fold over its bits. -/
theorem crcByteStepConsumesBitsLeastFirst : Obligations.CrcByteStepConsumesBitsLeastFirst :=
  crcSteps_eq_foldl 8

/-- R87 (b): the byte step is linear. -/
theorem crcByte_xor (c c' b b' : Byte) : crcByte (c ^^^ c') (b ^^^ b') = crcByte c b ^^^ crcByte c' b' :=
  crcSteps_xor _ c c' b b'

/-- Feeding a register to itself shifts it out: no bit step mixes. -/
theorem crcSteps_self (n : Nat) (c : Byte) : crcSteps n c c = c >>> n := by
  induction n generalizing c with
  | zero => rfl
  | succ n ih =>
    have hbit : crcBit c c = c >>> 1 := by simp [crcBit_eq]
    rw [crcSteps, hbit, ih, ← BitVec.shiftRight_add, Nat.add_comm]

theorem crcByte_self (c : Byte) : crcByte c c = 0x00 := by
  rw [crcByte, crcSteps_self]
  exact BitVec.ushiftRight_eq_zero (Nat.le_refl 8)

/-- From the seed, only the zero byte leaves the register zero. -/
theorem eq_zero_of_crcByte_zero : ∀ b : Byte, crcByte 0x00 b = 0x00 → b = 0x00 := by
  decide

/-- R87 (c): two bytes that take `c` to the same value differ by a byte that leaves zero at zero. -/
theorem crcByte_injective (c : Byte) : Function.Injective (crcByte c) := by
  intro b b' h
  have hdiff : crcByte 0x00 (b ^^^ b') = 0x00 := calc
    crcByte 0x00 (b ^^^ b') = crcByte (c ^^^ c) (b ^^^ b') := by simp
    _ = crcByte c b ^^^ crcByte c b' := crcByte_xor c c b b'
    _ = 0x00 := by simp [h]
  exact BitVec.xor_eq_zero_iff.1 (eq_zero_of_crcByte_zero _ hdiff)

/-- Settles O21: linearity split at the register and the byte, and an injection of a finite type into itself. -/
theorem crcByteStepIsLinearAndBijective : Obligations.CrcByteStepIsLinearAndBijective := by
  refine ⟨fun c b => ?_, fun c => Finite.injective_iff_bijective.1 (crcByte_injective c)⟩
  simp [← crcByte_xor]

/-! ### The residue laws -/

/-- R87 (d): a byte takes the register to zero exactly if it is the register's value. -/
theorem crcByte_eq_zero_iff {c b : Byte} : crcByte c b = 0x00 ↔ c = b := by
  rw [← crcByte_self c, (crcByte_injective c).eq_iff, eq_comm]

/-- R87 (d), (e): a last byte brings the checksum to zero exactly if it is the checksum of the others. -/
theorem crc8_concat_eq_zero_iff (s : List Byte) (b : Byte) : crc8 (s ++ [b]) = 0x00 ↔ crc8 s = b := by
  rw [crc8_concat, crcByte_eq_zero_iff]

theorem crcValid_concat (s : List Byte) (b : Byte) : crcValid (s ++ [b]) = true ↔ crc8 s = b := by
  rw [crcValid, List.getLast?_concat, List.dropLast_concat, beq_iff_eq, Option.some.injEq, eq_comm]

/-- Settles O22: a sequence that is not empty is its last byte after the others. -/
theorem crcResidueCharacterisesValidity : Obligations.CrcResidueCharacterisesValidity := by
  refine ⟨rfl, fun s => (crc8_concat_eq_zero_iff s _).2 rfl, fun s b => (crc8_concat_eq_zero_iff s b).symm,
    fun t ht => ?_⟩
  rw [← List.dropLast_append_getLast ht, crcValid_concat, crc8_concat_eq_zero_iff]

/-! ### One CRC command -/

/-- The state after a CRC command from `s` that makes `CRC` the first component and returns the second (R33). -/
def State.crcDone (s : State) (effect : Byte × List Byte) : State :=
  { s with crc := effect.1, ctrl := if s.isOpen then .idle else .closed,
           response := some ⟨0, 0x00, effect.2⟩, trace := [] }

section crcDone
variable (s : State) (effect : Byte × List Byte)

@[simp] theorem crcDone_isOpen : (s.crcDone effect).isOpen = s.isOpen := rfl
@[simp] theorem crcDone_baud : (s.crcDone effect).baud = s.baud := rfl
@[simp] theorem crcDone_timeout : (s.crcDone effect).timeout = s.timeout := rfl
@[simp] theorem crcDone_crc : (s.crcDone effect).crc = effect.1 := rfl
@[simp] theorem crcDone_response : (s.crcDone effect).response = some ⟨0, 0x00, effect.2⟩ := rfl
@[simp] theorem crcDone_commands : (s.crcDone effect).commands = s.commands := rfl
@[simp] theorem crcDone_env : (s.crcDone effect).env = s.env := rfl
@[simp] theorem crcDone_drawn : (s.crcDone effect).drawn = s.drawn := rfl

/-- R26: a finished CRC command leaves the block at rest. -/
theorem crcDone_not_busy : (s.crcDone effect).ctrl ≠ .busy := by
  cases h : s.isOpen <;> simp [State.crcDone, h]

end crcDone

/-- R89: the command, once admitted, is the function `f` of `CRC` alone: its new value and the data returned. -/
def ActsOnCrcBy (i : Instr) (f : Byte → Byte × List Byte) : Prop :=
  ∀ s : State, s.ctrl ≠ .busy → exec i s = .next (s.crcDone (f s.crc))

/-- A command no block at rest refuses, whose body only sets `CRC` and returns, acts so. -/
theorem actsOnCrcBy_of_body {i : Instr} {f : Byte → Byte × List Byte}
    (hr : ∀ isOpen, refusalAtRest i isOpen = none)
    (hbody : ∀ s, commandBody i s = .ret { s with crc := (f s.crc).1 } (f s.crc).2) : ActsOnCrcBy i f := by
  intro s hb
  rw [exec_of_no_refusal (hr s.isOpen), runCommand_admitted hb, hbody]
  rfl

theorem crcInit_acts : ActsOnCrcBy .crcInit fun _ => (0x00, []) :=
  actsOnCrcBy_of_body (fun _ => rfl) (fun _ => rfl)

theorem crcByte_acts (b : Byte) : ActsOnCrcBy (.crcByte b) fun c => (crcByte c b, []) :=
  actsOnCrcBy_of_body (fun _ => rfl) (fun _ => rfl)

theorem crcRead_acts : ActsOnCrcBy .crcRead fun c => (c, [c]) :=
  actsOnCrcBy_of_body (fun _ => rfl) (fun _ => rfl)

/-- A command that went on was admitted, so it has acted by its function. -/
theorem eq_crcDone_of_next {i : Instr} {f : Byte → Byte × List Byte} (hi : ActsOnCrcBy i f) {s t : State}
    (h : exec i s = .next t) : t = s.crcDone (f s.crc) := by
  have hb : s.ctrl ≠ .busy := fun hb => by rw [exec_busy hb] at h; cases h
  rw [hi s hb] at h
  cases h
  rfl

/-- Settles O24: each of the three commands has its function, and every command is refused in flight. -/
theorem crcCommandsAreIndependentOfTheTransceiver : Obligations.CrcCommandsAreIndependentOfTheTransceiver := by
  intro i hi
  have hacts : ∃ f, ActsOnCrcBy i f := by
    rcases hi with rfl | ⟨b, rfl⟩ | rfl
    · exact ⟨_, crcInit_acts⟩
    · exact ⟨_, crcByte_acts b⟩
    · exact ⟨_, crcRead_acts⟩
  exact ⟨hacts, fun s hb => exec_busy hb i⟩

/-- Settles O16: the word, and the command's function, which is constant. -/
theorem crcInitLoadsTheSeed : Obligations.CrcInitLoadsTheSeed := ⟨rfl, crcInit_acts⟩

/-- Settles O17: the word, the command's function, and the byte step on the rule's corner cases. -/
theorem crcByteFeedsOneByte : Obligations.CrcByteFeedsOneByte :=
  ⟨fun _ => rfl, crcByte_acts, by decide, crcByte_self, by decide, by decide⟩

/-! ### A sequence of CRC commands -/

/-- `k` steps from `s` end in a response holding `c`, which `CRC` then is, and leave the commands `rest`: the
transport's fields are as before, and each step has drawn one answer. -/
def State.ReadsOut (s : State) (k : Nat) (c : Byte) (rest : List Request) : Prop :=
  ∃ t, core.run k s = .next t ∧ t.response = some ⟨0, 0x00, [c]⟩ ∧ t.crc = c
    ∧ t.commands = rest ∧ t.isOpen = s.isOpen ∧ t.baud = s.baud ∧ t.timeout = s.timeout
    ∧ t.env = s.env.drop k ∧ t.drawn = s.drawn + k

/-- The state a step leaves that took a CRC command with this effect. -/
def State.crcStepped (s : State) (rest : List Request) (effect : Byte × List Byte) : State :=
  State.crcDone { s.lineActs with commands := rest } effect

/-- R22: a step that takes a CRC command. -/
theorem step_crc {i : Instr} {f : Byte → Byte × List Byte} (hi : ActsOnCrcBy i f) {s : State} {rest : List Request}
    (hb : s.ctrl ≠ .busy) (hc : s.commands = encode i :: rest) :
    step s = .next (s.crcStepped rest (f s.crc)) := by
  rw [step_command hc, execRequest_of_decode (decodeOfEncodeIsIdentity i)]
  exact hi { s.lineActs with commands := rest } hb

theorem run_succ {s t : State} (h : step s = .next t) (k : Nat) : core.run (k + 1) s = core.run k t := by
  have hcore : core.step s = .next t := h
  simp only [Host.Core.run, hcore]

/-- A CRC command before a sequence that reads out. -/
theorem readsOut_succ {i : Instr} {f : Byte → Byte × List Byte} (hi : ActsOnCrcBy i f) {s : State}
    {next rest : List Request} {k : Nat} {c : Byte} (hb : s.ctrl ≠ .busy) (hc : s.commands = encode i :: next)
    (h : (s.crcStepped next (f s.crc)).ReadsOut k c rest) : s.ReadsOut (k + 1) c rest := by
  obtain ⟨t, hrun, hresponse, hcrc, hcommands, hopen, hbaud, htimeout, henv, hdrawn⟩ := h
  refine ⟨t, (run_succ (step_crc hi hb hc) k).trans hrun, hresponse, hcrc, hcommands, hopen, hbaud, htimeout,
    ?_, ?_⟩
  · simpa [State.crcStepped] using henv
  · exact hdrawn.trans (Nat.add_right_comm ..)

/-- R84, R85: CRC_BYTE for each byte, then CRC_READ. -/
theorem readsOut_bytes (bs : List Byte) {s : State} {rest : List Request} (hb : s.ctrl ≠ .busy)
    (hc : s.commands = (bs.map fun b => encode (.crcByte b)) ++ encode .crcRead :: rest) :
    s.ReadsOut (bs.length + 1) (bs.foldl crcByte s.crc) rest := by
  induction bs generalizing s with
  | nil =>
    have hrun : core.run 1 s = .next (s.crcStepped rest (s.crc, [s.crc])) := run_succ (step_crc crcRead_acts hb hc) 0
    exact ⟨_, hrun, rfl, rfl, rfl, rfl, rfl, rfl, by simp [State.crcStepped], rfl⟩
  | cons b bs ih => exact readsOut_succ (crcByte_acts b) hb hc (ih (crcDone_not_busy _ _) rfl)

/-- R82, R83: CRC_INIT, CRC_BYTE for each byte, then CRC_READ. -/
theorem readsOut_crc8 {bs : List Byte} {s : State} {rest : List Request} (hb : s.ctrl ≠ .busy)
    (hc : s.commands = encode .crcInit :: (bs.map fun b => encode (.crcByte b)) ++ encode .crcRead :: rest) :
    s.ReadsOut (bs.length + 2) (crc8 bs) rest :=
  readsOut_succ crcInit_acts hb hc (readsOut_bytes bs (crcDone_not_busy _ _) rfl)

/-- Settles O23: the fold from the seed is `crc8` by definition, and the commands fold the bytes into `CRC` one by
one. -/
theorem crcCommandSequenceComputesCrc8 : Obligations.CrcCommandSequenceComputesCrc8 :=
  ⟨fun _ => rfl, fun _ _ _ => readsOut_crc8⟩

/-- Settles O18: CRC_READ's function returns `CRC` and keeps it, and the example is a sequence of CRC commands for seven
bytes. -/
theorem crcReadReturnsTheRegister : Obligations.CrcReadReturnsTheRegister := by
  refine ⟨rfl, crcRead_acts, ⟨_, rfl, rfl⟩, fun s t u hs ht => ?_, fun s rest hb hc => ?_⟩
  · obtain rfl := eq_crcDone_of_next crcRead_acts hs
    obtain rfl := eq_crcDone_of_next crcRead_acts ht
    rfl
  · obtain ⟨t, hrun, hresponse, -⟩ := readsOut_crc8 (bs := [0x28, 0xFF, 0x64, 0x1E, 0x04, 0x16, 0x03]) hb hc
    have hcrc8 : crc8 [0x28, 0xFF, 0x64, 0x1E, 0x04, 0x16, 0x03] = 0x51 := by decide +kernel
    exact ⟨t, hrun, hcrc8 ▸ hresponse⟩

end Sys2Proof.Machine
end

section
/-!
The bit engine (spec/41_bit_engine.md): what the bit and byte commands answer on an open transport, when every slot is
echoed and when one is the first that is not, and that none of them touches the rate.
-/

namespace Sys2Proof.Machine

/-! ### The observed bit and the bits sent -/

/-- Settles O25: `observed` is the test for `0xFF`. -/
theorem onlyEchoFfIsObservedAsOne : Obligations.OnlyEchoFfIsObservedAsOne := fun _ => beq_iff_eq

theorem zext8_observed (e : Byte) : zext8 (observed e) = if e = 0xFF then 0x01 else 0x00 := by
  simp only [zext8, onlyEchoFfIsObservedAsOne e]

theorem slotByte_bitValue (v : BitVec 1) : slotByte (bitValue v) = if v = 1 then 0xFF else 0x00 := by
  simp only [slotByte, bitValue, beq_iff_eq, Config.slotOne, Config.slotZero]

/-- R105: a write of `0xFF` sends the release pulses of a read. -/
theorem writeSlots_ff {i : Nat} (hi : i < 8) : writeSlots 0xFF i = 0xFF := by
  interval_cases i <;> rfl

/-- The trace of complete slots depends on the bytes of those slots alone. -/
theorem slotEvents_congr {sent sent' e : Nat → Byte} {n : Nat} (h : ∀ i < n, sent i = sent' i) :
    slotEvents sent e n = slotEvents sent' e n :=
  List.flatMap_congr fun i hi => by rw [h i (List.mem_range.1 hi)]

/-- A slot's byte echoed as sent is observed as the bit sent. -/
theorem observed_writeSlots (b : Byte) (i : Nat) : observed (writeSlots b i) = b.getLsbD i := by
  unfold writeSlots slotByte byteBit
  cases b.getLsbD i <;> rfl

/-- R104: a perfect echo assembles the byte written. -/
theorem assembled_writeSlots (b : Byte) : assembled (writeSlots b) = b :=
  (eq_assembled fun i _ => (observed_writeSlots b i).symm).symm

/-! ### A command behind the gate at its end -/

/-- `s` after a command on an open transport that drew `n` answers, performed the events `tr` and gave the response `r`
(R26, R33). -/
def State.answered (s : State) (n : Nat) (tr : List Event) (pin pout : List Byte) (r : Response) : State :=
  { s with ctrl := .idle, trace := tr, env := s.env.drop n, drawn := s.drawn + n, pendingIn := pin, pendingOut := pout,
           response := some r }

section gate
variable {s t : State} {n : Nat} {tr : List Event} {pin pout : List Byte} {body : State → Result (List Byte)}

@[simp] theorem answered_trace (r : Response) : (s.answered n tr pin pout r).trace = tr := rfl
@[simp] theorem answered_response (r : Response) : (s.answered n tr pin pout r).response = some r := rfl
@[simp] theorem answered_acc (r : Response) : (s.answered n tr pin pout r).acc = s.acc := rfl

theorem endCommand_advance (ho : s.isOpen = true) (r : Response) :
    (s.beginCommand.advance n tr pin pout).endCommand r = s.answered n tr pin pout r := by
  simp [State.endCommand, State.advance, State.beginCommand, State.answered, ho]

/-- A body that returns gives an OK response with its data; `t` is `s` with the transient fields as the body left
them. -/
theorem gated_ret {d : List Byte} (hb : s.ctrl ≠ .busy) (ho : s.isOpen = true) (ht : t.isOpen = true)
    (h : body s.beginCommand = .ret (t.beginCommand.advance n tr pin pout) d) :
    runCommand (requireOpen body) s = .next (t.answered n tr pin pout ⟨0, 0x00, d⟩) := by
  rw [gated_open hb ho, h, ← endCommand_advance ht]
  rfl

/-- A body that raises an error gives its response. -/
theorem gated_raise {err : BlockError} (hb : s.ctrl ≠ .busy) (ho : s.isOpen = true) (ht : t.isOpen = true)
    (h : body s.beginCommand = .raise (t.beginCommand.advance n tr pin pout) err) :
    runCommand (requireOpen body) s = .next (t.answered n tr pin pout (Response.failure err)) := by
  rw [gated_open hb ho, h, ← endCommand_advance ht]
  rfl

/-- R125: on a closed transport the command reports NOT_CONNECTED and changes nothing else. -/
theorem gated_notConnected (hb : s.ctrl ≠ .busy) (ho : s.isOpen = false) :
    runCommand (requireOpen body) s
      = .next { s with ctrl := .closed, response := some ⟨1, 0x00, []⟩, trace := [] } := by
  rw [gated_closed hb ho]
  simp only [State.raiseError, State.endCommand, beginCommand_isOpen, ho]
  rfl

end gate

/-! ### The bit commands -/

/-- R102, R103: the response of a bit command to the echo of its slot. -/
def bitResponse : Option Byte → Response
  | some e => ⟨0, 0x00, [if e = 0xFF then 0x01 else 0x00]⟩
  | none => ⟨2, 0x00, []⟩

/-- R102, R103: a bit command on an open transport is one slot and its response. -/
theorem gated_bitBody {s : State} (hb : s.ctrl ≠ .busy) (ho : s.isOpen = true) (sent : Byte) : ∃ pin pout,
    runCommand (requireOpen (bitBody sent)) s = .next
      (s.answered (s.slotDraws 0 sent) (s.slotTrace 0 sent) pin pout (bitResponse (s.slotEcho 0 sent))) := by
  obtain ⟨pin, pout, hx⟩ := exchange_spec sent s.beginCommand
  obtain ⟨hecho, htrace, hdraws⟩ := beginCommand_slot s 0 sent
  rw [hecho, htrace, hdraws] at hx
  refine ⟨pin, pout, ?_⟩
  cases he : s.slotEcho 0 sent with
  | some e =>
    rw [bitResponse, ← zext8_observed]
    exact gated_ret hb ho ho (by rw [bitBody, slot, hx, he])
  | none => exact gated_raise (err := .io) hb ho ho (by rw [bitBody, slot, hx, he])

theorem exec_owWriteBit (v : BitVec 1) (s : State) :
    exec (.owWriteBit v) s = runCommand (requireOpen (bitBody (if v = 1 then 0xFF else 0x00))) s := by
  rw [← slotByte_bitValue]
  rfl

theorem exec_owReadBit (s : State) : exec .owReadBit s = runCommand (requireOpen (bitBody 0xFF)) s := rfl

/-- R43: on an open-drain line the echo of a 0 slot is `0x00`. -/
theorem eq_zero_of_openDrain {s : State} {j : Nat} {e : Byte} (ho : s.openDrainEcho = true)
    (h : s.slotEcho j 0x00 = some e) : e = 0x00 := by
  have hmask : e &&& 0xFF = 0x00 := echoIsConstrainedOnlyByOpenDrain.1 s j 0x00 e ho h
  rwa [and_byte_mask] at hmask

/-- Settles O27: the command is the bit body with the slot byte of `v`, and an open-drain line echoes a 0 as 0. -/
theorem writeBitReturnsTheObservedBit : Obligations.WriteBitReturnsTheObservedBit := by
  refine ⟨rfl, rfl, fun v s hb ho => ?_, fun v s hb ho => ?_, fun s t e ho hdrain he ht => ?_⟩
  · rw [exec_owWriteBit]
    exact gated_bitBody hb ho _
  · exact gated_notConnected hb ho
  · rw [exec_owWriteBit] at ht
    obtain ⟨pin, pout, hx⟩ := gated_bitBody (runCommand_next ht).1 ho 0x00
    obtain rfl := eq_zero_of_openDrain hdrain he
    cases ht.symm.trans hx
    rw [answered_response, he]
    rfl

/-- Settles O28: both commands are the bit body with the release pulse. -/
theorem readBitIsWriteBitOne : Obligations.ReadBitIsWriteBitOne := by
  refine ⟨rfl, fun s hb ho => ?_, fun s hb ho => gated_notConnected hb ho, fun s => rfl⟩
  rw [exec_owReadBit]
  exact gated_bitBody hb ho 0xFF

/-! ### The byte commands, every slot echoed -/

/-- R104: the response of OW_WRITE_BYTE `b` once its eight slots have assembled `a`. -/
def writeResponse (b a : Byte) : Response := if a = b then ⟨0, 0x00, []⟩ else ⟨6, a, []⟩

theorem exec_owWriteByte_complete {b : Byte} {e : Nat → Byte} {s : State} (hb : s.ctrl ≠ .busy) (ho : s.isOpen = true)
    (h : ∀ i < 8, s.slotEcho i (writeSlots b i) = some (e i)) : ∃ pin pout, exec (.owWriteByte b) s = .next
      (State.answered { s with acc := assembled e, cnt := 8 } 16 (slotEvents (writeSlots b) e 8) pin pout
        (writeResponse b (assembled e))) := by
  obtain ⟨pin, pout, hx⟩ := byteTransaction_spec (writeSlots b) e 8 s.beginCommand (by omega) h (by omega)
  rw [if_pos rfl] at hx
  refine ⟨pin, pout, ?_⟩
  by_cases hab : assembled e = b
  · rw [writeResponse, if_pos hab]
    exact gated_ret hb ho ho (by rw [writeByteBody, hx]; exact if_pos hab)
  · rw [writeResponse, if_neg hab]
    exact gated_raise (err := .protocol (assembled e)) hb ho ho (by rw [writeByteBody, hx]; exact if_neg hab)

theorem exec_owReadByte_complete {e : Nat → Byte} {s : State} (hb : s.ctrl ≠ .busy) (ho : s.isOpen = true)
    (h : ∀ i < 8, s.slotEcho i 0xFF = some (e i)) : ∃ pin pout, exec .owReadByte s = .next
      (State.answered { s with acc := assembled e, cnt := 8 } 16 (slotEvents (fun _ => 0xFF) e 8) pin pout
        ⟨0, 0x00, [assembled e]⟩) := by
  obtain ⟨pin, pout, hx⟩ := readByteBody_complete e s.beginCommand h
  exact ⟨pin, pout, gated_ret hb ho ho (by rw [readByteData, hx]; rfl)⟩

/-- Settles O29: the byte compared is the one the eight observed bits assemble. -/
theorem writeByteComparesAfterEightSlots : Obligations.WriteByteComparesAfterEightSlots := by
  intro b s e hb ho h
  obtain ⟨pin, pout, hx⟩ := exec_owWriteByte_complete hb ho h
  exact ⟨assembled e, _, _, pin, pout, assembled_getLsbD e, hx⟩

/-- Settles O30: the byte returned is the one the eight observed bits assemble. -/
theorem readByteReturnsTheEightObservedBits : Obligations.ReadByteReturnsTheEightObservedBits := by
  intro s e hb ho h
  obtain ⟨pin, pout, hx⟩ := exec_owReadByte_complete hb ho h
  exact ⟨assembled e, _, _, pin, pout, assembled_getLsbD e, hx⟩

/-- Settles O33: a perfect echo assembles the byte written, so the comparison succeeds. -/
theorem perfectEchoWritesEveryByte : Obligations.PerfectEchoWritesEveryByte := by
  intro b s hb ho h
  obtain ⟨pin, pout, hx⟩ := exec_owWriteByte_complete (e := writeSlots b) hb ho h
  rw [assembled_writeSlots] at hx
  exact ⟨_, hx, by rw [answered_response, writeResponse, if_pos rfl], rfl⟩

/-! ### The byte commands, slot `j` the first that fails -/

section fails
variable {s : State} {e : Nat → Byte} {j : Nat}

theorem exec_owWriteByte_fails {b : Byte} (hb : s.ctrl ≠ .busy) (ho : s.isOpen = true) (hj : j < 8)
    (h : ∀ i < j, s.slotEcho i (writeSlots b i) = some (e i)) (hlast : s.slotEcho j (writeSlots b j) = none) :
    ∃ acc pin pout, exec (.owWriteByte b) s = .next
      (State.answered { s with acc := acc, cnt := j } (2 * j + s.slotDraws j (writeSlots b j))
        (slotEvents (writeSlots b) e j ++ s.slotTrace j (writeSlots b j)) pin pout ⟨2, 0x00, []⟩) := by
  obtain ⟨pin, pout, hx⟩ := byteTransaction_spec (writeSlots b) e j s.beginCommand (by omega) h fun _ => hlast
  rw [if_neg (by omega)] at hx
  refine ⟨accumulate e j 0 0x00, pin, pout,
    gated_raise (t := { s with acc := accumulate e j 0 0x00, cnt := j }) (err := .io) hb ho ho ?_⟩
  rw [writeByteBody, hx]
  simp only [State.recorded, State.startByte, Nat.zero_add]
  rfl

theorem exec_owReadByte_fails (hb : s.ctrl ≠ .busy) (ho : s.isOpen = true) (hj : j < 8)
    (h : ∀ i < j, s.slotEcho i 0xFF = some (e i)) (hlast : s.slotEcho j 0xFF = none) :
    ∃ acc pin pout, exec .owReadByte s = .next
      (State.answered { s with acc := acc, cnt := j } (2 * j + s.slotDraws j 0xFF)
        (slotEvents (fun _ => 0xFF) e j ++ s.slotTrace j 0xFF) pin pout ⟨2, 0x00, []⟩) := by
  obtain ⟨acc, pin, pout, hx⟩ := readByteBody_fails e j s.beginCommand hj h hlast
  exact ⟨acc, pin, pout, gated_raise (t := { s with acc := acc, cnt := j }) (err := .io) hb ho ho
    (by rw [readByteData, hx]; rfl)⟩

theorem exec_owReadBytes_fails {n : Byte} (hb : s.ctrl ≠ .busy) (ho : s.isOpen = true) (hj : j < 8 * n.toNat)
    (h : ∀ i < j, s.slotEcho i 0xFF = some (e i)) (hlast : s.slotEcho j 0xFF = none) :
    ∃ acc pin pout, exec (.owReadBytes n) s = .next
      (State.answered { s with acc := acc, cnt := j % 8, byteCnt := 0 + j / 8 } (2 * j + s.slotDraws j 0xFF)
        (slotEvents (fun _ => 0xFF) e j ++ s.slotTrace j 0xFF) pin pout ⟨2, 0x00, []⟩) := by
  obtain ⟨acc, pin, pout, hx⟩ := readBytesLoop_fails e n.toNat j [] s.beginCommand.startBytes hj h hlast
  exact ⟨acc, pin, pout, gated_raise (body := readBytesBody n)
    (t := { s with acc := acc, cnt := j % 8, byteCnt := 0 + j / 8 }) (err := .io) hb ho ho hx⟩

end fails

/-- Settles O32: each of the three commands ends with the slot that failed. -/
theorem byteCommandsStopAtTheFirstFailedSlot : Obligations.ByteCommandsStopAtTheFirstFailedSlot := by
  refine fun s e j hb ho => ⟨fun b hj h hlast => ?_, fun h hlast => ⟨fun hj => ?_, fun n hj => ?_⟩⟩
  · obtain ⟨acc, pin, pout, hx⟩ := exec_owWriteByte_fails hb ho hj h hlast
    exact ⟨acc, _, pin, pout, hx⟩
  · obtain ⟨acc, pin, pout, hx⟩ := exec_owReadByte_fails hb ho hj h hlast
    exact ⟨acc, _, pin, pout, hx⟩
  · obtain ⟨acc, pin, pout, hx⟩ := exec_owReadBytes_fails hb ho hj h hlast
    exact ⟨acc, _, _, pin, pout, hx⟩

/-- Settles O34: a write of `0xFF` sends a read's release pulses, so one account of the slots, all echoed or one the
first that is not, serves both commands. -/
theorem readByteTracesLikeWriteFf : Obligations.ReadByteTracesLikeWriteFf := by
  intro s hb ho
  obtain ⟨j, hj, e, he, hlast⟩ := slots_first_failure s (fun _ => 0xFF) 8
  have hwrite : ∀ i < j, s.slotEcho i (writeSlots 0xFF i) = some (e i) := fun i hi => by
    rw [writeSlots_ff (by omega), he i hi]
  have hevents : slotEvents (fun _ => 0xFF) e j = slotEvents (writeSlots 0xFF) e j :=
    slotEvents_congr fun i hi => (writeSlots_ff (by omega)).symm
  obtain rfl | hj8 := hj.eq_or_lt
  · obtain ⟨pin, pout, hread⟩ := exec_owReadByte_complete hb ho he
    obtain ⟨pin', pout', hx⟩ := exec_owWriteByte_complete hb ho hwrite
    exact ⟨_, _, hread, hx, hevents, .inl ⟨assembled e, rfl, rfl⟩⟩
  · obtain ⟨acc, pin, pout, hread⟩ := exec_owReadByte_fails hb ho hj8 he (hlast hj8)
    obtain ⟨acc', pin', pout', hx⟩ := exec_owWriteByte_fails (b := 0xFF) hb ho hj8 hwrite
      (by rw [writeSlots_ff hj8, hlast hj8])
    rw [writeSlots_ff hj8] at hx
    exact ⟨_, _, hread, hx, congrArg (· ++ s.slotTrace j 0xFF) hevents, .inr ⟨rfl, rfl⟩⟩

/-! ### The rate -/

/-- R107: from `s` to `t` the rate is as it was and no SetBaud has been performed. -/
def State.KeepsRate (s t : State) : Prop :=
  t.baud = s.baud ∧ ∀ r, Event.setBaud r ∈ t.trace → Event.setBaud r ∈ s.trace

theorem keepsRate_refl (s : State) : s.KeepsRate s := ⟨rfl, fun _ => id⟩

theorem keepsRate_trans {s t u : State} (h : s.KeepsRate t) (h' : t.KeepsRate u) : s.KeepsRate u := by
  obtain ⟨hbaud, htrace⟩ := h
  obtain ⟨hbaud', htrace'⟩ := h'
  exact ⟨hbaud'.trans hbaud, fun r hr => htrace r (htrace' r hr)⟩

/-- R100: a slot's events are Clear, Tx and Rx. -/
theorem setBaud_notMem_slotTrace (s : State) (j : Nat) (sent : Byte) (r : Baud) :
    Event.setBaud r ∉ s.slotTrace j sent := by
  unfold State.slotTrace
  split <;> simp

theorem exchange_keepsRate (sent : Byte) (s : State) : s.KeepsRate (exchange sent s).state := by
  obtain ⟨pin, pout, hx⟩ := exchange_spec sent s
  have h : s.KeepsRate (s.advance (s.slotDraws 0 sent) (s.slotTrace 0 sent) pin pout) :=
    ⟨rfl, fun r hr => (List.mem_append.1 hr).resolve_right (setBaud_notMem_slotTrace s 0 sent r)⟩
  rw [hx]
  cases s.slotEcho 0 sent <;> exact h

theorem bitBody_keepsRate (sent : Byte) (s : State) : s.KeepsRate (bitBody sent s).state := by
  have h := exchange_keepsRate sent s
  rw [bitBody, slot]
  cases hx : exchange sent s <;> rwa [hx] at h

theorem byteSlots_keepsRate (sent : Nat → Byte) (n : Nat) (s : State) : s.KeepsRate (byteSlots sent n s).state := by
  induction n generalizing s with
  | zero => exact keepsRate_refl s
  | succ n ih =>
    have h := exchange_keepsRate (sent s.cnt) s
    rw [byteSlots, slot]
    cases hx : exchange (sent s.cnt) s with
    | raise t err => rwa [hx] at h
    | ret t e =>
      rw [hx] at h
      exact keepsRate_trans (t := t) h (ih (t.record (observed e)))

theorem byteTransaction_keepsRate (sent : Nat → Byte) (s : State) : s.KeepsRate (byteTransaction sent s).state :=
  byteSlots_keepsRate sent Config.bitsPerByte s.startByte

theorem readByteBody_state (s : State) : (readByteBody s).state = (byteTransaction readSlots s).state := by
  unfold readByteBody
  cases byteTransaction readSlots s <;> rfl

theorem readBytesLoop_keepsRate (n : Nat) (out : List Byte) (s : State) :
    s.KeepsRate (readBytesLoop n out s).state := by
  induction n generalizing out s with
  | zero => exact keepsRate_refl s
  | succ n ih =>
    have h := readByteBody_state s ▸ byteTransaction_keepsRate readSlots s
    rw [readBytesLoop]
    cases hx : readByteBody s with
    | raise t err => rwa [hx] at h
    | ret t b =>
      rw [hx] at h
      exact keepsRate_trans (t := t) h (ih _ t.countByte)

theorem requireOpen_keepsRate {body : State → Result (List Byte)} {s : State} (h : s.KeepsRate (body s).state) :
    s.KeepsRate (requireOpen body s).state := by
  cases ho : s.isOpen with
  | true => rwa [requireOpen_open ho]
  | false => rw [requireOpen_closed ho]; exact keepsRate_refl s

@[simp] theorem finish_trace (r : Result (List Byte)) : (finish r).trace = r.state.trace := by cases r <;> rfl

/-- Settles O35: a body of slots keeps the rate, and a command's trace is its body's, from an empty one on. -/
theorem bitCommandsNeverSetTheBaudRate : Obligations.BitCommandsNeverSetTheBaudRate := by
  refine ⟨fun i s t hi ht => ?_, fun s hs => hs.baud⟩
  obtain ⟨-, rfl⟩ := exec_next ht
  have h : s.beginCommand.KeepsRate (commandBody i s.beginCommand).state := by
    obtain ⟨v, rfl⟩ | rfl | ⟨b, rfl⟩ | rfl | ⟨n, rfl⟩ := hi
    · exact requireOpen_keepsRate (bitBody_keepsRate _ _)
    · exact requireOpen_keepsRate (bitBody_keepsRate _ _)
    · exact requireOpen_keepsRate (writeByteBody_state b _ ▸ byteTransaction_keepsRate _ _)
    · exact requireOpen_keepsRate (readByteData_state _ ▸ byteTransaction_keepsRate _ _)
    · exact requireOpen_keepsRate (readBytesLoop_keepsRate (byteCount n) [] s.beginCommand.startBytes)
  obtain ⟨hbaud, htrace⟩ := h
  rw [finish_baud, finish_trace]
  exact ⟨hbaud, fun r hr => List.not_mem_nil (htrace r hr)⟩

end Sys2Proof.Machine
end

section
/-!
The bus controller (spec/42_bus_controller.md): the gate, the byte-sequence read with every slot echoed, OPEN and CLOSE,
and the reset pulse with the verdict on its echo.
-/

namespace Sys2Proof.Machine

/-! ### The gate -/

/-- Settles O26: each of the six commands is a body behind the gate, and a CRC command is a function of `CRC` alone. -/
theorem closedTransportReportsNotConnected : Obligations.ClosedTransportReportsNotConnected := by
  refine ⟨fun i s hi hb ho => ?_, fun i s hi hb ho => ?_⟩
  · obtain rfl | ⟨n, rfl⟩ | ⟨v, rfl⟩ | rfl | ⟨b, rfl⟩ | rfl := hi <;> exact gated_notConnected hb ho
  · obtain ⟨f, hf⟩ := (crcCommandsAreIndependentOfTheTransceiver i hi).1
    exact ⟨_, _, hf s hb, rfl⟩

/-! ### The byte-sequence read -/

theorem exec_owReadBytes_complete {n : Byte} {e : Nat → Byte} {s : State} (hb : s.ctrl ≠ .busy) (ho : s.isOpen = true)
    (h : ∀ i < 8 * n.toNat, s.slotEcho i 0xFF = some (e i)) :
    ∃ acc cnt pin pout, exec (.owReadBytes n) s = .next
      (State.answered { s with acc := acc, cnt := cnt, byteCnt := 0 + n.toNat } (16 * n.toNat)
        (slotEvents (fun _ => 0xFF) e (8 * n.toNat)) pin pout ⟨0, 0x00, assembledBytes e n.toNat⟩) := by
  obtain ⟨acc, cnt, pin, pout, -, hx⟩ := readBytesLoop_complete e n.toNat [] s.beginCommand.startBytes h
  exact ⟨acc, cnt, pin, pout, gated_ret (body := readBytesBody n)
    (t := { s with acc := acc, cnt := cnt, byteCnt := 0 + n.toNat }) hb ho ho hx⟩

/-- Settles O31: byte `k` is the one that the observed bits of slots `8 * k` to `8 * k + 7` assemble. -/
theorem readBytesReturnsTheBytesInOrder : Obligations.ReadBytesReturnsTheBytesInOrder := by
  intro n s e hb ho h
  obtain ⟨acc, cnt, pin, pout, hx⟩ := exec_owReadBytes_complete hb ho h
  exact ⟨assembledBytes e n.toNat, acc, cnt, _, pin, pout, assembledBytes_length e n.toNat,
    fun k hk => ⟨_, assembledBytes_getElem? e n.toNat k hk, assembled_getLsbD _⟩, hx⟩

/-! ### OPEN and CLOSE -/

/-- R62: OPEN's word, which its side arguments are no part of. -/
theorem encode_openTransport_word (path : Path) (timeout : Duration) :
    (encode (.openTransport path timeout)).word = 0x0100 :=
  show commandWord 0x01 0x00 = 0x0100 by decide

/-- What the environment answers a command is what it would have answered before the command began. -/
@[simp] theorem beginCommand_answerAt (s : State) (k : Nat) (ask : Ask) :
    s.beginCommand.answerAt k ask = s.answerAt k ask := rfl

/-- R120: an OPEN that is admitted runs its body. -/
theorem exec_openTransport_admitted {path : Path} {timeout : Duration} {s : State} (hb : s.ctrl ≠ .busy)
    (ho : s.isOpen = false) (ht : 0 < timeout) :
    exec (.openTransport path timeout) s = .next (finish (openBody path timeout s.beginCommand)) := by
  have hr : refusalAtRest (.openTransport path timeout) s.isOpen = none := by simp [refusalAtRest, ho, ht]
  rw [exec_of_no_refusal hr, runCommand_admitted hb]
  rfl

/-- Settles O40: OPEN has two refusals of its own, and an admitted one ends as the transport's answer decides. -/
theorem openOpensTheTransportAt115200 : Obligations.OpenOpensTheTransportAt115200 := by
  intro path timeout s hb
  have hopen : s.isOpen = true → ∃ r, exec (.openTransport path timeout) s = .refused r := fun ho =>
    ⟨_, exec_of_refusal (r := .openWhileOpen) (by simp [refusalAtRest, ho])⟩
  refine ⟨encode_openTransport_word path timeout, hopen, fun ht => ?_, fun ho ht => ⟨fun hok => ?_, fun hfail => ?_⟩⟩
  · cases ho : s.isOpen with
    | true => exact hopen ho
    | false => exact ⟨_, exec_of_refusal (r := .timeoutNotPositive) (by simp [refusalAtRest, ho, ht])⟩
  · rw [exec_openTransport_admitted hb ho ht, openBody_spec, beginCommand_answerAt, if_pos hok]
    exact ⟨_, _, rfl⟩
  · rw [exec_openTransport_admitted hb ho ht, openBody_spec, beginCommand_answerAt, if_neg (by simp [hfail])]
    simp only [finish_raise, State.raiseError, State.endCommand, advance_isOpen, beginCommand_isOpen, ho]
    rfl

/-- Settles O41: CLOSE has one refusal of its own, and an admitted one runs its body. -/
theorem closeClosesTheTransport : Obligations.CloseClosesTheTransport := by
  refine ⟨rfl, fun s hb => ⟨fun ho => ?_, fun ho => ?_⟩⟩
  · exact ⟨_, exec_of_refusal (r := .closeWhileClosed) (by simp [refusalAtRest, ho])⟩
  · have hr : refusalAtRest .closeTransport s.isOpen = none := by simp [refusalAtRest, ho]
    rw [exec_of_no_refusal hr, runCommand_admitted hb]
    exact ⟨s.baud, s.timeout, rfl⟩

/-! ### The presence classification -/

/-- R122 with R7's constants written out. -/
theorem classifyPresence_eq (p : Byte) : classifyPresence p =
    if p = 0xF0 then .noDevice
    else if p = 0x00 then .shortCircuit
    else if 0x10 ≤ p ∧ p ≤ 0xE0 then .present
    else .malformed p := rfl

/-- R69: the Present range holds neither of the two single values. -/
theorem not_single_of_present {p : Byte} (h : 0x10 ≤ p ∧ p ≤ 0xE0) : p ≠ 0xF0 ∧ p ≠ 0x00 := by
  constructor <;> rintro rfl <;> exact absurd h (by decide)

/-- Settles O42: each row is its own branch of the classification, and the class sizes are counted over the
256 echoes. -/
theorem presenceEchoFallsInOneClass : Obligations.PresenceEchoFallsInOneClass := by
  refine ⟨fun p => ⟨?_, ?_, fun hp => ?_, fun ⟨hnone, hshort, hp⟩ => ?_⟩, ?_, ?_, ?_, ?_⟩
  · rintro rfl
    rfl
  · rintro rfl
    rfl
  · obtain ⟨hnone, hshort⟩ := not_single_of_present hp
    rw [classifyPresence_eq, if_neg hnone, if_neg hshort, if_pos hp]
  · rw [classifyPresence_eq, if_neg hnone, if_neg hshort, if_neg hp]
  all_goals decide +kernel

/-! ### The reset pulse -/

/-- R123: the response of OW_RESET to the echo of its pulse. -/
def resetResponse : Option Byte → Response
  | none => ⟨2, 0x00, []⟩
  | some e =>
    if e = 0xF0 then ⟨3, 0x00, []⟩
    else if e = 0x00 then ⟨4, 0x00, []⟩
    else if 0x10 ≤ e ∧ e ≤ 0xE0 then ⟨0, 0x00, []⟩
    else ⟨5, e, []⟩

/-- R123: the response is the verdict on the echo's class. -/
theorem resetResponse_some (e : Byte) : resetResponse (some e) =
    ((classifyPresence e).verdict.map Response.failure).getD (Response.success []) := by
  rw [resetResponse, classifyPresence_eq]
  split_ifs <;> rfl

/-- R123, R126: where the reset pulse ends, the response said once for all its paths. -/
theorem finish_resetBody (s : State) : ∃ pin pout,
    let p := setBaud .b9600 s
    finish (resetBody s) = (setBaud .b115200 (p.advance (p.slotDraws 0 0xF0) (p.slotTrace 0 0xF0) pin pout)).endCommand
      (resetResponse (p.slotEcho 0 0xF0)) := by
  obtain ⟨pin, pout, hx⟩ := resetBody_spec s
  refine ⟨pin, pout, ?_⟩
  dsimp only at hx ⊢
  rw [hx]
  cases (setBaud .b9600 s).slotEcho 0 0xF0 with
  | none => rfl
  | some e =>
    simp only [resetResponse_some]
    cases (classifyPresence e).verdict <;> rfl

/-- R123, R126: OW_RESET on an open transport: the pulse at 9600 baud, the rate restored, and the verdict. -/
theorem exec_owReset_open {s : State} (hb : s.ctrl ≠ .busy) (ho : s.isOpen = true) :
    let p : State := { s with baud := .b9600 }
    ∃ pin pout, exec .owReset s = .next (State.answered { s with baud := .b115200 } (p.slotDraws 0 0xF0)
      (.setBaud .b9600 :: (p.slotTrace 0 0xF0 ++ [.setBaud .b115200])) pin pout
      (resetResponse (p.slotEcho 0 0xF0))) := by
  obtain ⟨pin, pout, hx⟩ := finish_resetBody s.beginCommand
  refine ⟨pin, pout, (gated_open hb ho resetBody).trans (congrArg _ (hx.trans ?_))⟩
  exact endCommand_advance (s := { s with baud := .b115200 }) ho _

/-- Settles O43: the response is the verdict on the echo, and a closed transport does not pass the gate. -/
theorem resetPulseReportsThePresence : Obligations.ResetPulseReportsThePresence :=
  ⟨rfl, fun _ hb ho => exec_owReset_open hb ho, fun _ hb ho => gated_notConnected hb ho⟩

/-- Settles O44: on an open transport the restore is the last event whatever the echo, and on a closed one nothing
happens. -/
theorem resetAlwaysRestoresTheBaudRate : Obligations.ResetAlwaysRestoresTheBaudRate := by
  intro s t h
  obtain ⟨hb, -⟩ := runCommand_next (body := requireOpen resetBody) h
  refine ⟨fun ho => ?_, fun ho => ?_⟩
  · obtain ⟨pin, pout, hx⟩ := exec_owReset_open hb ho
    cases h.symm.trans hx
    exact ⟨rfl, by rw [answered_trace, ← List.cons_append, List.getLast?_concat]⟩
  · cases h.symm.trans (gated_notConnected (body := resetBody) hb ho)
    exact ⟨rfl, rfl⟩

end Sys2Proof.Machine
end

section
/-!
The host's commands (spec/43_host_protocol.md): what one command ends in, and what a sequence of them ends in.
-/

namespace Sys2Proof.Machine

/-! ### One command of the host -/

/-- A command the host sends runs as itself (R60). -/
theorem step_sent (i : Instr) (h : HostState) : step (h.sending i).block = exec i h.block.lineActs :=
  step_sending (decodeOfEncodeIsIdentity i) h

/-- A command that went on leaves the block at rest (R26). -/
theorem exec_not_busy {i : Instr} {s t : State} (h : exec i s = .next t) : t.ctrl ≠ .busy := by
  obtain ⟨-, rfl⟩ := exec_next h
  rw [finish_ctrl]
  split <;> exact nofun

/-- R160, R161: a finished command answers OK with data, or an error without. -/
theorem finish_answer (r : Result (List Byte)) : (∃ d, (finish r).response = some ⟨0, 0x00, d⟩)
    ∨ ∃ st info, st ≠ Status.ok ∧ (finish r).response = some ⟨st.code, info, []⟩ := by
  cases r with
  | ret t d => exact .inl ⟨d, rfl⟩
  | raise t e => exact .inr ⟨e.status, e.info, by cases e <;> exact nofun, rfl⟩

/-- R163, R160: a command the host sends is refused, answered OK, or answered with an error. -/
theorem step_sent_cases (i : Instr) (h : HostState) :
    (∃ r, step (h.sending i).block = .refused r)
    ∨ (∃ t d, step (h.sending i).block = .next t ∧ t.response = some ⟨0, 0x00, d⟩)
    ∨ ∃ t st info, step (h.sending i).block = .next t ∧ st ≠ Status.ok ∧ t.response = some ⟨st.code, info, []⟩ := by
  rw [step_sent, exec_eq]
  cases refusalAtRest i h.block.lineActs.isOpen with
  | some r => exact .inl ⟨_, rfl⟩
  | none =>
    by_cases hb : h.block.lineActs.ctrl = .busy
    · exact .inl ⟨_, runCommand_busy hb _⟩
    · obtain ⟨d, hd⟩ | ⟨st, info, hst, hr⟩ := finish_answer (commandBody i h.block.lineActs.beginCommand)
      · exact .inr (.inl ⟨_, d, runCommand_admitted hb _, hd⟩)
      · exact .inr (.inr ⟨_, st, info, runCommand_admitted hb _, hst, hr⟩)

section issue
variable {α : Type} {i : Instr} {h : HostState} {k : HostState → List Byte → HostEnd α}

theorem issue_next {t : State} (hs : step (h.sending i).block = .next t) :
    issue i h k = answer ⟨h.log ++ [.cmd i], t⟩ k := by
  rw [issue, hs]
  rfl

theorem issue_refused {r : Refusal} (hs : step (h.sending i).block = .refused r) :
    issue i h k = .refused (h.sending i) r := by
  rw [issue, hs]

/-- R149: after OK the host goes on with the data. -/
theorem issue_ok {t : State} {info : Byte} {d : List Byte} (hs : step (h.sending i).block = .next t)
    (hr : t.response = some ⟨0, info, d⟩) : issue i h k = k ⟨h.log ++ [.cmd i], t⟩ d := by
  rw [issue_next hs, answer_ok hr]

/-- R149: after an error the host stops and reports it. -/
theorem issue_error {t : State} {st : Status} {r : Response} (hs : step (h.sending i).block = .next t)
    (hr : t.response = some r) (hc : r.status = st.code) (hst : st ≠ .ok) :
    issue i h k = .failed ⟨h.log ++ [.cmd i], t⟩ st r.info := by
  rw [issue_next hs, answer_error hr hc hst]

end issue

/-- U12: the codes 9 to 15 name no status. -/
theorem ofCode_reserved (c : BitVec 4) (h : 9 ≤ c.toNat) : Status.ofCode c = .error (.reservedStatus c) := by
  revert c
  decide

/-- Settles O58: the cases of `answer` on the response, and a refusal before any. -/
theorem issueGoesOnAfterOkAndStopsOnAnyError : Obligations.IssueGoesOnAfterOkAndStopsOnAnyError := by
  refine fun α h k => ⟨fun i t r hs hr => ⟨fun h0 => ?_, fun st hst hc => issue_error hs hr hc hst⟩,
    fun i r => issue_refused, fun hr => by rw [answer, hr], fun r hr h9 => ?_⟩
  · obtain ⟨status, info, data⟩ := r
    obtain rfl : status = 0 := h0
    exact issue_ok hs hr
  · simp only [answer, hr, ofCode_reserved r.status h9]

/-! ### A sequence of commands -/

theorem issueAll_append {α : Type} (is js : List Instr) (data : List Byte) (h : HostState)
    (k : HostState → List Byte → HostEnd α) :
    issueAll (is ++ js) data h k = issueAll is data h fun h data => issueAll js data h k := by
  induction is generalizing data h with
  | nil => rfl
  | cons i is ih => simp only [List.cons_append, issueAll, ih]

theorem allSucceed_append {is js : List Instr} {h h' : HostState} :
    AllSucceed (is ++ js) h h' ↔ ∃ m, AllSucceed is h m ∧ AllSucceed js m h' := by
  induction is generalizing h with
  | nil => simp
  | cons i is ih =>
    simp only [List.cons_append, allSucceed_cons, ih]
    constructor
    · rintro ⟨t, d, hs, hr, m, hi, hj⟩
      exact ⟨m, ⟨t, d, hs, hr, hi⟩, hj⟩
    · rintro ⟨m, ⟨t, d, hs, hr, hi⟩, hj⟩
      exact ⟨t, d, hs, hr, m, hi, hj⟩

theorem allSucceed_log {is : List Instr} {h h' : HostState} (hs : AllSucceed is h h') :
    h'.log = h.log ++ hostCommands is := by
  induction is generalizing h with
  | nil => rw [(allSucceed_nil h h').1 hs]; exact (List.append_nil _).symm
  | cons i is ih =>
    obtain ⟨t, d, -, -, hrest⟩ := hs
    rw [ih hrest]
    exact List.append_assoc ..

/-- R149: a sequence whose commands all succeed goes on. -/
theorem issueAll_of_allSucceed {α : Type} {is : List Instr} {h h' : HostState} (hs : AllSucceed is h h')
    (data : List Byte) (k : HostState → List Byte → HostEnd α) : ∃ d, issueAll is data h k = k h' d := by
  induction is generalizing h data with
  | nil =>
    obtain rfl := (allSucceed_nil h h').1 hs
    exact ⟨data, rfl⟩
  | cons i is ih =>
    obtain ⟨t, d, hstep, hr, hrest⟩ := hs
    rw [issueAll, issue_ok hstep hr]
    exact ih hrest d

/-- R149: such a sequence hands on the data of its last command's response. -/
theorem issueAll_concat_of_allSucceed {α : Type} {is : List Instr} {i : Instr} {h h' : HostState} {d : List Byte}
    (hs : AllSucceed (is ++ [i]) h h') (hd : h'.block.response = some ⟨0, 0x00, d⟩) (data : List Byte)
    (k : HostState → List Byte → HostEnd α) : issueAll (is ++ [i]) data h k = k h' d := by
  obtain ⟨m, his, t, d', hstep, hr, rfl⟩ := allSucceed_append.1 hs
  obtain ⟨d₀, hd₀⟩ := issueAll_of_allSucceed his data fun h data => issueAll [i] data h k
  rw [issueAll_append, hd₀, issueAll, issue_ok hstep hd, issueAll]

/-- R149: the first error is the first command's, or that one succeeds and the error is the first of the others. -/
theorem firstFailure_cons {i : Instr} {is : List Instr} {h h' : HostState} {st : Status} {info : Byte} :
    FirstFailure (i :: is) h h' st info ↔
      (∃ t, step (h.sending i).block = .next t ∧ st ≠ .ok ∧ t.response = some ⟨st.code, info, []⟩
        ∧ h' = ⟨h.log ++ [.cmd i], t⟩)
      ∨ ∃ t d, step (h.sending i).block = .next t ∧ t.response = some ⟨0, 0x00, d⟩
        ∧ FirstFailure is ⟨h.log ++ [.cmd i], t⟩ h' st info := by
  constructor
  · rintro ⟨n, j, before, hn, hs, hstep, hr, hst, hlog⟩
    cases n with
    | zero =>
      cases hn
      obtain rfl := (allSucceed_nil h before).1 hs
      exact .inl ⟨h'.block, hstep, hst, hr, congrArg (HostState.mk · h'.block) hlog⟩
    | succ n =>
      obtain ⟨t, d, hstep₀, hr₀, hrest⟩ := hs
      exact .inr ⟨t, d, hstep₀, hr₀, n, j, before, hn, hrest, hstep, hr, hst,
        hlog.trans (List.append_assoc h.log [_] _).symm⟩
  · rintro (⟨t, hstep, hst, hr, rfl⟩ | ⟨t, d, hstep, hr, n, j, before, hn, hs, hstep', hr', hst, hlog⟩)
    · exact ⟨0, i, h, rfl, rfl, hstep, hr, hst, rfl⟩
    · exact ⟨n + 1, j, before, hn, ⟨t, d, hstep, hr, hs⟩, hstep', hr', hst,
        hlog.trans (List.append_assoc h.log [_] _)⟩

/-- R149: a sequence stops with its first error. -/
theorem issueAll_of_firstFailure {α : Type} {is : List Instr} {h h' : HostState} {st : Status} {info : Byte}
    (hf : FirstFailure is h h' st info) (data : List Byte) (k : HostState → List Byte → HostEnd α) :
    issueAll is data h k = .failed h' st info := by
  induction is generalizing h data with
  | nil =>
    obtain ⟨n, i, -, hn, -⟩ := hf
    cases hn
  | cons i is ih =>
    obtain ⟨t, hstep, hst, hr, rfl⟩ | ⟨t, d, hstep, hr, hrest⟩ := firstFailure_cons.1 hf
    · exact issue_error hstep hr rfl hst
    · rw [issueAll, issue_ok hstep hr, ih hrest]

/-- R149, R163: a sequence's commands all succeed, or it has a first error, or the block refuses one. -/
theorem issueAll_cases (is : List Instr) (h : HostState) :
    (∃ h', AllSucceed is h h') ∨ (∃ h' st info, FirstFailure is h h' st info)
    ∨ ∃ h' r, ∀ {α : Type} data (k : HostState → List Byte → HostEnd α), issueAll is data h k = .refused h' r := by
  induction is generalizing h with
  | nil => exact .inl ⟨h, rfl⟩
  | cons i is ih =>
    obtain ⟨r, hstep⟩ | ⟨t, d, hstep, hr⟩ | ⟨t, st, info, hstep, hst, hr⟩ := step_sent_cases i h
    · exact .inr (.inr ⟨_, r, fun _ _ => issue_refused hstep⟩)
    · obtain ⟨h', hs⟩ | ⟨h', st, info, hf⟩ | ⟨h', r, hx⟩ := ih ⟨h.log ++ [.cmd i], t⟩
      · exact .inl ⟨h', t, d, hstep, hr, hs⟩
      · exact .inr (.inl ⟨h', st, info, firstFailure_cons.2 (.inr ⟨t, d, hstep, hr, hf⟩)⟩)
      · exact .inr (.inr ⟨h', r, fun _ _ => by rw [issueAll, issue_ok hstep hr, hx]⟩)
    · exact .inr (.inl ⟨_, st, info, firstFailure_cons.2 (.inl ⟨t, hstep, hst, hr, rfl⟩)⟩)

/-- R149: a sequence that stopped with an error stopped with its first one, or the error came after all its commands. -/
theorem issueAll_failed {α : Type} {is : List Instr} {data : List Byte} {h h' : HostState} {st : Status} {info : Byte}
    {k : HostState → List Byte → HostEnd α} (hx : issueAll is data h k = .failed h' st info) :
    FirstFailure is h h' st info ∨ ∃ m d, AllSucceed is h m ∧ k m d = .failed h' st info := by
  obtain ⟨m, hs⟩ | ⟨m, st', info', hf⟩ | ⟨m, r, hr⟩ := issueAll_cases is h
  · obtain ⟨d, hd⟩ := issueAll_of_allSucceed hs data k
    exact .inr ⟨m, d, hs, hd ▸ hx⟩
  · cases (issueAll_of_firstFailure hf data k).symm.trans hx
    exact .inl hf
  · cases (hr data k).symm.trans hx

/-- R149: a sequence that ended with a result had all its commands succeed. -/
theorem issueAll_done {α : Type} {is : List Instr} {data : List Byte} {h h' : HostState} {a : α}
    {k : HostState → List Byte → HostEnd α} (hx : issueAll is data h k = .done h' a) : ∃ m, AllSucceed is h m := by
  obtain ⟨m, hs⟩ | ⟨m, st, info, hf⟩ | ⟨m, r, hr⟩ := issueAll_cases is h
  · exact ⟨m, hs⟩
  · cases (issueAll_of_firstFailure hf data k).symm.trans hx
  · cases (hr data k).symm.trans hx

end Sys2Proof.Machine
end

section
/-!
The host's reads (spec/43_host_protocol.md): the CRC check as the block computes it, the data formats, and how a read
and its check end, which is how READ_ROM and READ_TEMPERATURE end.
-/

namespace Sys2Proof.Machine

/-! ### The CRC check -/

/-- `h'` is `h` after the commands `is`, which have left `c` in `CRC` and the transport as it was. -/
structure HostState.Checksummed (h : HostState) (is : List Instr) (c : Byte) (h' : HostState) : Prop where
  log : h'.log = h.log ++ hostCommands is
  crc : h'.block.crc = c
  isOpen : h'.block.isOpen = h.block.isOpen
  baud : h'.block.baud = h.block.baud

/-- `h` after a CRC command that was answered with this effect on `CRC` (R89). -/
def HostState.crcSent (h : HostState) (i : Instr) (effect : Byte × List Byte) : HostState :=
  ⟨h.log ++ [.cmd i], h.block.lineActs.crcDone effect⟩

section crcSent
variable {α : Type} {h h' : HostState} {i : Instr} {is : List Instr} {effect : Byte × List Byte} {c : Byte}

theorem crcSent_not_busy : (h.crcSent i effect).block.ctrl ≠ .busy := crcDone_not_busy _ _

/-- R89: a CRC command issued to a block at rest. -/
theorem issue_crc {f : Byte → Byte × List Byte} (hi : ActsOnCrcBy i f) (hb : h.block.ctrl ≠ .busy)
    (k : HostState → List Byte → HostEnd α) :
    issue i h k = k (h.crcSent i (f h.block.crc)) (f h.block.crc).2 :=
  issue_ok ((step_sent i h).trans (hi h.block.lineActs hb)) rfl

theorem checksummed_single : h.Checksummed [i] effect.1 (h.crcSent i effect) := ⟨rfl, rfl, rfl, rfl⟩

/-- A CRC command before others that leave `c` in `CRC`. -/
theorem checksummed_cons (hc : (h.crcSent i effect).Checksummed is c h') : h.Checksummed (i :: is) c h' where
  log := hc.log.trans (List.append_assoc ..)
  crc := hc.crc
  isOpen := hc.isOpen
  baud := hc.baud

end crcSent

/-- R84, R85: CRC_BYTE for each byte, then CRC_READ, hand on the register with the bytes folded in. -/
theorem issueAll_crcBytes {α : Type} (bs data : List Byte) {h : HostState} (hb : h.block.ctrl ≠ .busy)
    (k : HostState → List Byte → HostEnd α) :
    ∃ h', h.Checksummed (bs.map .crcByte ++ [.crcRead]) (bs.foldl crcByte h.block.crc) h'
      ∧ issueAll (bs.map .crcByte ++ [.crcRead]) data h k = k h' [bs.foldl crcByte h.block.crc] := by
  induction bs generalizing h data with
  | nil => exact ⟨_, checksummed_single (effect := (h.block.crc, [h.block.crc])), issue_crc crcRead_acts hb _⟩
  | cons b bs ih =>
    obtain ⟨h', hc, hx⟩ := ih [] (crcSent_not_busy (h := h) (i := .crcByte b) (effect := (crcByte h.block.crc b, [])))
    exact ⟨h', checksummed_cons hc, (issue_crc (crcByte_acts b) hb _).trans hx⟩

/-- R83 to R85, R148: the block's answer to the pseudo-instruction CRC8 is the checksum. -/
theorem issueAll_crc8 {α : Type} (bs : List Byte) {h : HostState} (hb : h.block.ctrl ≠ .busy)
    (k : HostState → List Byte → HostEnd α) :
    ∃ h', h.Checksummed (Pseudo.crc8 bs).expand (crc8 bs) h'
      ∧ issueAll (Pseudo.crc8 bs).expand [] h k = k h' [crc8 bs] := by
  obtain ⟨h', hc, hx⟩ := issueAll_crcBytes bs [] (crcSent_not_busy (h := h) (i := .crcInit) (effect := (0x00, []))) k
  exact ⟨h', checksummed_cons hc, (issue_crc crcInit_acts hb _).trans hx⟩

/-- R88: the comparison of the host is CRC-validity. -/
theorem crcValid_iff (t : List Byte) : crcValid t = true ↔ t.getLast? = some (crc8 t.dropLast) := beq_iff_eq

/-- R88 for a length given. -/
theorem crcValid_iff_of_length {t : List Byte} {n : Nat} (h : t.length = n + 1) :
    crcValid t = true ↔ t[n]? = some (crc8 (t.take n)) := by
  rw [crcValid_iff, List.getLast?_eq_getElem?, List.dropLast_eq_take, h, Nat.add_sub_cancel]

/-- R145, R148: the check on a block at rest. -/
theorem checkCrc_eq {α : Type} (t : List Byte) {h : HostState} (hb : h.block.ctrl ≠ .busy) (k : HostState → HostEnd α) :
    ∃ h', h.Checksummed (Pseudo.crc8 t.dropLast).expand (crc8 t.dropLast) h'
      ∧ checkCrc t h k = if crcValid t then k h' else .failed h' .crcError 0x00 := by
  obtain ⟨h', hc, hx⟩ := issueAll_crc8 t.dropLast hb fun h data =>
    if data.head? = t.getLast? then k h else .failed h .crcError 0x00
  refine ⟨h', hc, hx.trans ?_⟩
  simp only [List.head?_cons, crcValid_iff, eq_comm (b := t.getLast?)]

/-- Settles O51: the block's answer to CRC8 is compared with the last byte. -/
theorem hostCrcCheckGoesOnExactlyWhenValid : Obligations.HostCrcCheckGoesOnExactlyWhenValid := by
  intro α t h k hb
  obtain ⟨h', hc, hx⟩ := checkCrc_eq t hb k
  exact ⟨h', hc.log, hc.crc, hc.isOpen, hc.baud, hx⟩

/-! ### The data formats -/

/-- R144: byte 1 is the signed part. -/
theorem rawTemperature_eq_toInt (lo hi : Byte) : rawTemperature lo hi = 256 * hi.toInt + lo.toNat := by
  have happend : (hi.setWidth 16 <<< 8) ||| lo.setWidth 16 = hi ++ lo := by
    rw [BitVec.append_def, BitVec.shiftLeftZeroExtend_eq, BitVec.setWidth'_eq]
  rw [rawTemperature, happend, BitVec.toInt_append]
  rfl

theorem byte_toInt (b : Byte) : b.toInt = b.toNat - if 0x80 ≤ b then 256 else 0 := by
  have hle : (0x80 : Byte) ≤ b ↔ 128 ≤ b.toNat := BitVec.le_def
  simp only [BitVec.toInt_eq_toNat_cond, hle]
  split_ifs <;> omega

/-- R144: the little-endian two's-complement value. -/
theorem rawTemperature_eq (lo hi : Byte) :
    rawTemperature lo hi = lo.toNat + 256 * hi.toNat - if 0x80 ≤ hi then 65536 else 0 := by
  rw [rawTemperature_eq_toInt, byte_toInt]
  split <;> ring

theorem temperature_eq (sp : Scratchpad) : temperature sp = (((sp.tempLow.toNat : Int) + 256 * sp.tempHigh.toNat
    - if 0x80 ≤ sp.tempHigh then 65536 else 0 : Int) : Rat) / 16 := by
  rw [temperature, rawTemperature_eq]

/-- R144: 16 bits. -/
theorem rawTemperature_bounds (lo hi : Byte) : -32768 ≤ rawTemperature lo hi ∧ rawTemperature lo hi ≤ 32768 :=
  ⟨BitVec.le_toInt _, (BitVec.toInt_lt (w := 16)).le⟩

/-- Settles O50: the value is the signed high byte's and the low byte's, and 16 bits bound it. -/
theorem temperatureIsSignedLittleEndianSixteenths : Obligations.TemperatureIsSignedLittleEndianSixteenths := by
  refine ⟨fun sp => ⟨temperature_eq sp, ?_⟩, by decide, by decide, by decide, by decide⟩
  obtain ⟨hlo, hhi⟩ := rawTemperature_bounds sp.tempLow sp.tempHigh
  have hlo' : (-32768 : Rat) ≤ rawTemperature sp.tempLow sp.tempHigh := mod_cast hlo
  have hhi' : (rawTemperature sp.tempLow sp.tempHigh : Rat) ≤ 32768 := mod_cast hhi
  constructor <;> unfold temperature <;> linarith

/-- R140: eight bytes are laid out as a RomCode. -/
theorem romCode_ofBytes {bs : List Byte} (h : bs.length = 8) : ∃ code, RomCode.ofBytes bs = some code
    ∧ bs[0]? = some code.family ∧ (bs.drop 1).take 6 = code.serial ∧ bs[7]? = some code.crc := by
  match bs, h with
  | [_, _, _, _, _, _, _, _], _ => exact ⟨_, rfl, rfl, rfl, rfl⟩

/-- R141: nine bytes are laid out as a Scratchpad. -/
theorem scratchpad_ofBytes {bs : List Byte} (h : bs.length = 9) : ∃ sp, Scratchpad.ofBytes bs = some sp
    ∧ bs[0]? = some sp.tempLow ∧ bs[1]? = some sp.tempHigh ∧ (bs.drop 2).take 6 = sp.config
    ∧ bs[8]? = some sp.crc := by
  match bs, h with
  | [_, _, _, _, _, _, _, _, _], _ => exact ⟨_, rfl, rfl, rfl, rfl, rfl⟩

/-! ### A read and its check -/

theorem readBytesLoop_ret_length {n : Nat} {out d : List Byte} {s t : State} (h : readBytesLoop n out s = .ret t d) :
    d.length = out.length + n := by
  induction n generalizing out s with
  | zero => cases h; rfl
  | succ n ih =>
    rw [readBytesLoop] at h
    split at h
    · cases h
    · rw [ih h, List.length_append, List.length_singleton]
      omega

/-- R124: OW_READ_BYTES `n` that answers OK has read `n` bytes. -/
theorem exec_owReadBytes_ok_length {n : Byte} {s t : State} {d : List Byte} (h : exec (.owReadBytes n) s = .next t)
    (hr : t.response = some ⟨0, 0x00, d⟩) : d.length = n.toNat := by
  obtain ⟨u, hu, -⟩ := exec_ok h hr
  exact (readBytesLoop_ret_length (requireOpen_ret (body := readBytesBody n) hu)).trans (Nat.zero_add _)

/-- `read` is where the sequence `front`, then OW_READ_BYTES `n` went on from `h`, and `bs` is what was read. -/
structure ReadBack (front : List Instr) (n : Byte) (h read : HostState) (bs : List Byte) : Prop where
  allSucceed : AllSucceed (front ++ [.owReadBytes n]) h read
  response : read.block.response = some ⟨0, 0x00, bs⟩
  length : bs.length = n.toNat
  atRest : read.block.ctrl ≠ .busy

/-- R124, R26: a sequence that ends with a read has read its bytes and left the block at rest. -/
theorem readBack_of_allSucceed {front : List Instr} {n : Byte} {h read : HostState}
    (hs : AllSucceed (front ++ [.owReadBytes n]) h read) : ∃ bs, ReadBack front n h read bs := by
  obtain ⟨m, -, t, bs, hstep, hr, rfl⟩ := allSucceed_append.1 hs
  rw [step_sent] at hstep
  exact ⟨bs, hs, hr, exec_owReadBytes_ok_length hstep hr, exec_not_busy hstep⟩

/-- R142, R143: how both host operations end: a sequence with a read last, the CRC check of what was read, and then
`result` of it. -/
def checkedRead {α : Type} (front : List Instr) (n : Byte) (result : List Byte → α) (h : HostState) : HostEnd α :=
  issueAll (front ++ [.owReadBytes n]) [] h fun h bs => checkCrc bs h fun h => .done h (result bs)

theorem readRom_eq (h : HostState) : readRom h = checkedRead [.owReset, .owWriteByte 0x33] 8 id h := rfl

/-- R143: READ_TEMPERATURE after its first sequence and the wait. -/
def readScratchpad (settle : Duration) (converted : HostState) : HostEnd (Option Rat) :=
  checkedRead [.owReset, .owWriteByte 0xCC, .owWriteByte 0xBE] 9 (fun bs => (Scratchpad.ofBytes bs).map temperature)
    { converted with log := converted.log ++ [.wait settle] }

theorem readTemperature_eq (settle : Duration) (h : HostState) : readTemperature settle h =
    issueAll [.owReset, .owWriteByte 0xCC, .owWriteByte 0x44] [] h fun h _ => readScratchpad settle h := rfl

section checkedRead
variable {α : Type} {front : List Instr} {n : Byte} {result : List Byte → α} {h h' read : HostState}
  {bs : List Byte}

/-- R145: what was read decides how it ends. -/
theorem checkedRead_of_readBack (hr : ReadBack front n h read bs) :
    ∃ h', h'.log = read.log ++ hostCommands (Pseudo.crc8 bs.dropLast).expand ∧ checkedRead front n result h =
      if crcValid bs then .done h' (result bs) else .failed h' .crcError 0x00 := by
  obtain ⟨h', hc, hx⟩ := checkCrc_eq bs hr.atRest fun h => .done h (result bs)
  exact ⟨h', hc.log, (issueAll_concat_of_allSucceed hr.allSucceed hr.response [] _).trans hx⟩

/-- R145: it ends with a result only for CRC-valid bytes, and after all its commands. -/
theorem checkedRead_done {a : α} (hx : checkedRead front n result h = .done h' a) :
    ∃ read bs, ReadBack front n h read bs ∧ crcValid bs = true ∧ a = result bs
      ∧ h'.log = h.log ++ hostCommands (front ++ [.owReadBytes n])
        ++ hostCommands (Pseudo.crc8 (bs.take (n.toNat - 1))).expand := by
  obtain ⟨read, hs⟩ := issueAll_done hx
  obtain ⟨bs, hr⟩ := readBack_of_allSucceed hs
  obtain ⟨h₁, hlog, hend⟩ := checkedRead_of_readBack (result := result) hr
  rw [hx] at hend
  split at hend
  · cases hend
    rw [allSucceed_log hs, List.dropLast_eq_take, hr.length] at hlog
    exact ⟨read, bs, hr, ‹_›, rfl, hlog⟩
  · cases hend

/-- R149: an error other than CRC_ERROR is the first of its sequence. -/
theorem checkedRead_failed {st : Status} {info : Byte} (hx : checkedRead front n result h = .failed h' st info)
    (hst : st ≠ .crcError) : FirstFailure (front ++ [.owReadBytes n]) h h' st info := by
  obtain hf | ⟨read, -, hs, -⟩ := issueAll_failed hx
  · exact hf
  · obtain ⟨bs, hr⟩ := readBack_of_allSucceed hs
    obtain ⟨h₁, -, hend⟩ := checkedRead_of_readBack (result := result) hr
    rw [hx] at hend
    split at hend
    · cases hend
    · cases hend
      exact absurd rfl hst

end checkedRead

/-! ### READ_ROM and READ_TEMPERATURE report what they met -/

/-- Settles O52: a checked read of eight bytes. -/
theorem readRomReturnsOnlyValidatedBytes : Obligations.ReadRomReturnsOnlyValidatedBytes := by
  intro h h' rom hx
  obtain ⟨read, bs, hr, hvalid, rfl, hlog⟩ := checkedRead_done ((readRom_eq h).symm.trans hx)
  exact ⟨hr.length, (crcValid_iff_of_length hr.length).1 hvalid, hvalid,
    ⟨read, issueAll_concat_of_allSucceed hr.allSucceed hr.response [] _, hr.response⟩, romCode_ofBytes hr.length, hlog⟩

/-- Settles O53: a checked read of nine bytes, after the first sequence and the wait. -/
theorem readTemperatureReturnsOnlyValidatedReadings : Obligations.ReadTemperatureReturnsOnlyValidatedReadings := by
  intro settle h h' result hx
  rw [readTemperature_eq] at hx
  obtain ⟨converted, hs⟩ := issueAll_done hx
  obtain ⟨_, hrest⟩ := issueAll_of_allSucceed hs [] fun h _ => readScratchpad settle h
  obtain ⟨data, hdata⟩ := issueAll_of_allSucceed hs [] HostEnd.done
  obtain ⟨read, bs, hr, hvalid, rfl, hlog⟩ := checkedRead_done (hrest.symm.trans hx)
  obtain ⟨sp, hsp, hlow, hhigh, hconfig, hcrc⟩ := scratchpad_ofBytes hr.length
  rw [allSucceed_log hs] at hlog
  exact ⟨bs, sp, hr.length, hvalid, hsp, hlow, hhigh, hconfig, hcrc,
    ⟨converted, data, read, hdata, issueAll_concat_of_allSucceed hr.allSucceed hr.response [] _, hr.response⟩,
    by rw [hsp]; rfl, hlog⟩

/-- Settles O54: a checked read reports the first error of its sequence. -/
theorem readRomStopsAtTheFirstError : Obligations.ReadRomStopsAtTheFirstError := fun h _ _ _ hx hst =>
  checkedRead_failed ((readRom_eq h).symm.trans hx) hst

/-- Settles O55: the error is the first sequence's, or that one went on and it is the checked read's. -/
theorem readTemperatureStopsAtTheFirstError : Obligations.ReadTemperatureStopsAtTheFirstError := by
  intro settle h h' st info hx hst
  rw [readTemperature_eq] at hx
  obtain hf | ⟨converted, _, hs, hx⟩ := issueAll_failed hx
  · exact .inl hf
  · exact .inr ⟨converted, hs, allSucceed_log hs, checkedRead_failed hx hst⟩

/-- Settles O59: both operations begin with a sequence that stops with its first error, and READ_TEMPERATURE's checked
read begins where its first sequence went on. -/
theorem hostOperationsEndWithTheirFirstError : Obligations.HostOperationsEndWithTheirFirstError := by
  refine ⟨fun α is data h h' k => ⟨fun hs => issueAll_of_allSucceed hs data k,
    fun st info hf => issueAll_of_firstFailure hf data k⟩, fun h h' st info hf => issueAll_of_firstFailure hf [] _,
    fun settle h h' st info => ⟨fun hf => issueAll_of_firstFailure hf [] _, fun converted hs hf => ?_⟩⟩
  obtain ⟨_, hx⟩ := issueAll_of_allSucceed hs [] fun h _ => readScratchpad settle h
  rw [readTemperature_eq, hx]
  exact issueAll_of_firstFailure hf [] _

end Sys2Proof.Machine
end

section
/-!
A device that answers (spec/43_host_protocol.md): what each command of the host's sequences finds in the environment's
answers, and how READ_ROM and READ_TEMPERATURE end then.
-/

namespace Sys2Proof.Machine

/-! ### What a device sends -/

/-- `t` is an open block at rest whose environment's coming answers are those of `s` from number `n` on, and whose rate
is `r` (R24, R43). -/
structure State.Reaches (s : State) (n : Nat) (r : Baud) (t : State) : Prop where
  isOpen : t.isOpen = true
  atRest : t.ctrl ≠ .busy
  baud : t.baud = r
  timeout : t.timeout = s.timeout
  openDrainEcho : t.openDrainEcho = s.openDrainEcho
  env : t.env = s.env.drop n
  drawn : t.drawn = s.drawn + n

section reaches
variable {s t : State} {n : Nat} {r : Baud}

theorem reaches_refl (ho : s.isOpen = true) (hb : s.ctrl ≠ .busy) : s.Reaches 0 s.baud s :=
  ⟨ho, hb, rfl, rfl, rfl, rfl, rfl⟩

/-- R31: the draw for the buffers when a command begins. -/
theorem reaches_lineActs (ht : s.Reaches n r t) : s.Reaches (n + 1) r t.lineActs :=
  ⟨ht.isOpen, ht.atRest, ht.baud, ht.timeout, ht.openDrainEcho, by simp [ht.env], by simp [ht.drawn, Nat.add_assoc]⟩

theorem reaches_setBaud (ht : s.Reaches n r t) (r' : Baud) : s.Reaches n r' { t with baud := r' } :=
  ⟨ht.isOpen, ht.atRest, rfl, ht.timeout, ht.openDrainEcho, ht.env, ht.drawn⟩

/-- The transient fields of R29 play no part. -/
theorem reaches_transient (ht : s.Reaches n r t) (acc : Byte) (cnt byteCnt : Nat) :
    s.Reaches n r { t with acc := acc, cnt := cnt, byteCnt := byteCnt } :=
  ⟨ht.isOpen, ht.atRest, ht.baud, ht.timeout, ht.openDrainEcho, ht.env, ht.drawn⟩

/-- A command that drew `m` answers leaves the block that many further. -/
theorem reaches_answered (ht : s.Reaches n r t) (m : Nat) (tr : List Event) (pin pout : List Byte) (q : Response) :
    s.Reaches (n + m) r (t.answered m tr pin pout q) where
  isOpen := ht.isOpen
  atRest := nofun
  baud := ht.baud
  timeout := ht.timeout
  openDrainEcho := ht.openDrainEcho
  env := by simp [State.answered, ht.env]
  drawn := by simp [State.answered, ht.drawn, Nat.add_assoc]

theorem slotEcho_of_reaches (ht : s.Reaches n r t) (j : Nat) (sent : Byte) :
    t.slotEcho j sent = (s.later n r).slotEcho j sent :=
  ht.baud ▸ slotEcho_of_later ht.env ht.drawn ht.timeout ht.openDrainEcho j sent

end reaches

/-- From every state that `s` reaches after `n` answers at the rate `r`, the command is answered OK with the data `d`,
and the block is then `m` answers further at 115200 baud. -/
def State.Serves (s : State) (n : Nat) (r : Baud) (i : Instr) (m : Nat) (d : List Byte) : Prop :=
  ∀ t, s.Reaches n r t →
    ∃ u, exec i t = .next u ∧ u.response = some ⟨0, 0x00, d⟩ ∧ s.Reaches (n + m) .b115200 u

/-- The echo of each of `n` exchanges, if each has one. -/
theorem exists_echoes {s : State} {sent : Nat → Byte} {v : Nat → Bool} {n : Nat}
    (h : ∀ i < n, (s.slotEcho i (sent i)).map observed = some (v i)) :
    ∃ e : Nat → Byte, ∀ i < n, s.slotEcho i (sent i) = some (e i) ∧ observed (e i) = v i := by
  have hecho : ∀ i < n, ∃ e, s.slotEcho i (sent i) = some e ∧ observed e = v i := fun i hi =>
    Option.map_eq_some_iff.1 (h i hi)
  choose! e he using hecho
  exact ⟨e, he⟩

/-- R44: the echoes that spell `bs` assemble `bs`. -/
theorem exists_echoes_of_readSpells {s : State} {bs : List Byte} (h : s.ReadSpells bs) :
    ∃ e : Nat → Byte, (∀ j < 8 * bs.length, s.slotEcho j 0xFF = some (e j)) ∧ assembledBytes e bs.length = bs := by
  have hbits : ∀ j < 8 * bs.length,
      (s.slotEcho j 0xFF).map observed = some ((bs.getD (j / 8) 0).getLsbD (j % 8)) := fun j hj => by
    have hk : j / 8 < bs.length := by omega
    have hj' := h (j / 8) (j % 8) _ (List.getElem?_eq_getElem hk) (by omega)
    rwa [Nat.div_add_mod, ← List.getD_eq_getElem _ 0] at hj'
  obtain ⟨e, he⟩ := exists_echoes (sent := fun _ => 0xFF) hbits
  refine ⟨e, fun j hj => (he j hj).1, List.ext_getElem (assembledBytes_length e _) fun k hk hk' => ?_⟩
  have hbyte : bs[k] = assembled fun i => e (8 * k + i) := eq_assembled fun i hi => by
    rw [(he (8 * k + i) (by omega)).2, show (8 * k + i) / 8 = k by omega, show (8 * k + i) % 8 = i by omega,
      List.getD_eq_getElem _ _ hk']
  rw [hbyte, List.getElem_eq_iff, assembledBytes_getElem? e _ k hk']

section serves
variable {s : State} {n : Nat}

/-- R69, R123: an answered reset pulse. -/
theorem serves_owReset (r : Baud) (hp : (s.later n .b9600).PresenceAnswered) : s.Serves n r .owReset 2 [] := by
  intro t ht
  obtain ⟨e, hlo, hhi, he⟩ := hp
  rw [← slotEcho_of_reaches (reaches_setBaud ht .b9600)] at he
  obtain ⟨pin, pout, hx⟩ := exec_owReset_open ht.atRest ht.isOpen
  obtain ⟨hnone, hshort⟩ := not_single_of_present ⟨hlo, hhi⟩
  rw [he, (slot_of_echo he).2, resetResponse, if_neg hnone, if_neg hshort, if_pos ⟨hlo, hhi⟩] at hx
  exact ⟨_, hx, rfl, reaches_answered (reaches_setBaud ht .b115200) ..⟩

/-- R104: an echoed write. -/
theorem serves_owWriteByte {b : Byte} (hw : (s.later n .b115200).WriteEchoed b) :
    s.Serves n .b115200 (.owWriteByte b) 16 [] := by
  intro t ht
  obtain ⟨e, he⟩ := exists_echoes hw
  have hslots : ∀ i < 8, t.slotEcho i (writeSlots b i) = some (e i) := fun i hi =>
    (slotEcho_of_reaches ht i _).trans (he i hi).1
  obtain ⟨pin, pout, hx⟩ := exec_owWriteByte_complete ht.atRest ht.isOpen hslots
  have hb : assembled e = b := (eq_assembled fun i hi => (he i hi).2.symm).symm
  rw [writeResponse, if_pos hb] at hx
  exact ⟨_, hx, rfl, reaches_answered (reaches_transient ht ..) ..⟩

/-- R124: a read that a device answers. -/
theorem serves_owReadBytes {k : Byte} {bs : List Byte} (hlen : bs.length = k.toNat)
    (hs : (s.later n .b115200).ReadSpells bs) : s.Serves n .b115200 (.owReadBytes k) (16 * k.toNat) bs := by
  intro t ht
  obtain ⟨e, he, hbs⟩ := exists_echoes_of_readSpells hs
  rw [hlen] at he hbs
  obtain ⟨acc, cnt, pin, pout, hx⟩ := exec_owReadBytes_complete ht.atRest ht.isOpen fun j hj =>
    (slotEcho_of_reaches ht j _).trans (he j hj)
  rw [hbs] at hx
  exact ⟨_, hx, rfl, reaches_answered (reaches_transient ht ..) ..⟩

end serves

/-- From every host whose block `s` reaches after `n` answers at the rate `r`, the commands all succeed, and the block
is then at answer `m` of `s` and at 115200 baud. -/
def State.ServesAll (s : State) (n : Nat) (r : Baud) (is : List Instr) (m : Nat) : Prop :=
  ∀ h : HostState, s.Reaches n r h.block → ∃ h', AllSucceed is h h' ∧ s.Reaches m .b115200 h'.block

section servesAll
variable {s : State} {n m k : Nat} {r : Baud} {i : Instr} {d bs : List Byte}

theorem servesAll_nil : s.ServesAll n .b115200 [] n := fun h hh => ⟨h, rfl, hh⟩

/-- R31: a host's command begins with the buffers' draw. -/
theorem step_sent_of_serves {h : HostState} (hi : s.Serves (n + 1) r i k d) (hh : s.Reaches n r h.block) :
    ∃ u, step (h.sending i).block = .next u ∧ u.response = some ⟨0, 0x00, d⟩
      ∧ s.Reaches (n + 1 + k) .b115200 u := by
  rw [step_sent]
  exact hi _ (reaches_lineActs hh)

theorem servesAll_cons {is : List Instr} (hi : s.Serves (n + 1) r i k d)
    (his : s.ServesAll (n + 1 + k) .b115200 is m) : s.ServesAll n r (i :: is) m := by
  intro h hh
  obtain ⟨u, hstep, hr, hu⟩ := step_sent_of_serves hi hh
  obtain ⟨h', hs, hh'⟩ := his ⟨h.log ++ [.cmd i], u⟩ hu
  exact ⟨h', ⟨u, d, hstep, hr, hs⟩, hh'⟩

/-- R145: where a device answers the commands and then the read, the bytes it sent decide how a checked read ends. -/
theorem checkedRead_of_serves {α : Type} {front : List Instr} {c : Byte} (result : List Byte → α) {h : HostState}
    (hh : s.Reaches n r h.block) (hf : s.ServesAll n r front m) (hlen : bs.length = c.toNat)
    (hs : (s.later (m + 1) .b115200).ReadSpells bs) : ∃ h', checkedRead front c result h =
      if crcValid bs then .done h' (result bs) else .failed h' .crcError 0x00 := by
  obtain ⟨h₁, hfront, hh₁⟩ := hf h hh
  obtain ⟨u, hstep, hr, hu⟩ := step_sent_of_serves (serves_owReadBytes hlen hs) hh₁
  have hread : ReadBack front c h ⟨h₁.log ++ [.cmd (.owReadBytes c)], u⟩ bs :=
    ⟨allSucceed_append.2 ⟨h₁, hfront, u, bs, hstep, hr, rfl⟩, hr, hlen, hu.atRest⟩
  obtain ⟨h', -, hx⟩ := checkedRead_of_readBack (result := result) hread
  exact ⟨h', hx⟩

/-- R69, R104: an answered reset pulse, then two echoed writes. -/
theorem servesAll_reset_write_write {b b' : Byte} (hp : (s.later (n + 1) .b9600).PresenceAnswered)
    (hw : (s.later (n + 4) .b115200).WriteEchoed b) (hw' : (s.later (n + 21) .b115200).WriteEchoed b') :
    s.ServesAll n r [.owReset, .owWriteByte b, .owWriteByte b'] (n + 37) :=
  servesAll_cons (serves_owReset r hp) (servesAll_cons (serves_owWriteByte hw)
    (servesAll_cons (serves_owWriteByte hw') servesAll_nil))

end servesAll

/-- Settles O56: a checked read that a device answers. -/
theorem readRomReturnsTheBytesADeviceSends : Obligations.ReadRomReturnsTheBytesADeviceSends := by
  intro h rom ho hb hlen hp hw hs
  exact checkedRead_of_serves id (reaches_refl ho hb)
    (servesAll_cons (serves_owReset _ hp) (servesAll_cons (serves_owWriteByte hw) servesAll_nil)) hlen hs

/-- Settles O57: a first sequence and a checked read that a device answers, each a reset and two writes; the wait between
them leaves the block alone (R147). -/
theorem readTemperatureReturnsTheTemperatureADeviceSends :
    Obligations.ReadTemperatureReturnsTheTemperatureADeviceSends := by
  intro settle h bytes low high ho hb hlen hlow hhigh hp hw hw' hp' hw₂ hw₂' hs
  obtain ⟨converted, hconvert, hconverted⟩ := servesAll_reset_write_write hp hw hw' h (reaches_refl ho hb)
  obtain ⟨_, hx⟩ := issueAll_of_allSucceed hconvert [] fun h _ => readScratchpad settle h
  obtain ⟨sp, hsp, hlow', hhigh', -⟩ := scratchpad_ofBytes hlen
  obtain rfl : low = sp.tempLow := Option.some.inj (hlow.symm.trans hlow')
  obtain rfl : high = sp.tempHigh := Option.some.inj (hhigh.symm.trans hhigh')
  have hend := checkedRead_of_serves (fun bs => (Scratchpad.ofBytes bs).map temperature)
    (c := 9) (h := { converted with log := converted.log ++ [.wait settle] }) hconverted
    (servesAll_reset_write_write hp' hw₂ hw₂') hlen hs
  rw [hsp, Option.map_some, temperature_eq] at hend
  rw [readTemperature_eq, hx]
  exact hend

end Sys2Proof.Machine
end

section
/-!
Errors and refusals (spec/60_exceptions.md): the status codes, when a command is refused, what one behind the gate
leaves behind, and which errors each command can raise.
-/

namespace Sys2Proof.Machine

/-! ### The status codes -/

/-- R161: the host reads back the status it was given. -/
theorem ofCode_code (st : Status) : Status.ofCode st.code = .ok st := by
  cases st <;> rfl

/-- R161: no two statuses share a code. -/
theorem code_injective : Function.Injective Status.code := fun st st' h =>
  Except.ok.inj ((ofCode_code st).symm.trans (h ▸ ofCode_code st'))

/-- Settles O48: the reading inverts the codes, and 9 to 15 name no status. -/
theorem reservedStatusCodesFault : Obligations.ReservedStatusCodesFault := ⟨ofCode_code, ofCode_reserved⟩

/-! ### Refusals -/

/-- R163: every command is refused in flight, and a block at rest refuses those with a refusal of their own. -/
theorem exec_refused_iff (i : Instr) (s : State) : (∃ r, exec i s = .refused r)
    ↔ s.ctrl = .busy ∨ ∃ r, refusalAtRest i s.isOpen = some r := by
  by_cases hb : s.ctrl = .busy
  · exact ⟨fun _ => .inl hb, fun _ => ⟨_, exec_busy hb i⟩⟩
  · cases hr : refusalAtRest i s.isOpen with
    | some r => exact ⟨fun _ => .inr ⟨r, rfl⟩, fun _ => ⟨_, exec_of_refusal hr⟩⟩
    | none => simp [exec_of_no_refusal hr, runCommand_admitted hb, hb]

/-- R120, R121: only OPEN and CLOSE have refusals of their own. -/
theorem refusalAtRest_iff (i : Instr) (isOpen : Bool) : (∃ r, refusalAtRest i isOpen = some r)
    ↔ (∃ path timeout, i = .openTransport path timeout ∧ (isOpen = true ∨ ¬ 0 < timeout))
      ∨ (i = .closeTransport ∧ isOpen = false) := by
  cases i with
  | openTransport path timeout => cases isOpen <;> simp [refusalAtRest]
  | closeTransport => cases isOpen <;> simp [refusalAtRest]
  | _ => simp [refusalAtRest]

/-- Settles O9: a command is refused in flight or for its own reason, and `refusalAtRest` lists the reasons. -/
theorem refusalsAreExactlyTheListed : Obligations.RefusalsAreExactlyTheListed := fun i s =>
  (exec_refused_iff i s).trans (or_congr_right (refusalAtRest_iff i s.isOpen))

/-! ### What an error leaves behind -/

/-- R23, R25, R28: a command behind the gate writes neither `OPEN` nor `TIMEOUT` nor `CRC`. -/
theorem exec_gated_frame {i : Instr} {s t : State} (hi : Gated i = true) (h : exec i s = .next t) :
    t.isOpen = s.isOpen ∧ t.timeout = s.timeout ∧ t.crc = s.crc := by
  obtain ⟨hopen, -, htimeout, hcrc, -, -⟩ := persistentFieldsChangeOnlyByTheirWriters i s t h
  refine ⟨by_contra fun hne => ?_, by_contra fun hne => ?_, by_contra fun hne => ?_⟩
  · obtain rfl | ⟨path, timeout, rfl⟩ := hopen hne <;> cases hi
  · obtain ⟨path, timeout, rfl⟩ := htimeout hne
    cases hi
  · obtain rfl | ⟨b, rfl⟩ := hcrc hne <;> cases hi

/-- R120: an OPEN that does not answer OK leaves the transport closed and `CRC` as it was. -/
theorem exec_openTransport_fails {path : Path} {timeout : Duration} {s t : State}
    (h : exec (.openTransport path timeout) s = .next t) (hr : t.response ≠ some ⟨0, 0x00, []⟩) :
    t.isOpen = false ∧ t.crc = s.crc := by
  obtain ⟨hadmitted, rfl⟩ := exec_next h
  rw [commandBody, openBody_spec] at hr ⊢
  split at hr
  · exact absurd rfl hr
  · rename_i hfail
    rw [if_neg hfail]
    refine ⟨?_, rfl⟩
    cases ho : s.isOpen with
    | false => exact ho
    | true => simp [refusalAtRest, ho] at hadmitted

/-- Settles O46: the writers of `OPEN`, `TIMEOUT` and `CRC` are not behind the gate, and the invariant of the state after
the command gives the rate and `CTRL`. -/
theorem errorsLeaveTheHandleUsable : Obligations.ErrorsLeaveTheHandleUsable := by
  refine ⟨fun i s t hs ho hi h => ?_, fun path timeout s t h hr => exec_openTransport_fails h (by simp [hr])⟩
  have ht : t.Inv := exec_keeps_inv hs h
  obtain ⟨hopen, htimeout, hcrc⟩ := exec_gated_frame hi h
  have hto : t.isOpen = true := hopen.trans ho
  exact ⟨hto, ht.baud hto, htimeout, hcrc, ht.ctrl.trans (if_pos hto)⟩

/-! ### The errors a body can raise -/

/-- R68, R100: an exchange raises IoError and nothing else. -/
theorem exchange_raise {sent : Byte} {s t : State} {err : BlockError} (h : exchange sent s = .raise t err) :
    err = .io := by
  obtain ⟨pin, pout, hx⟩ := exchange_spec sent s
  rw [h] at hx
  split at hx <;> cases hx
  rfl

theorem bitBody_raise {sent : Byte} {s t : State} {err : BlockError} (h : bitBody sent s = .raise t err) :
    err = .io := by
  unfold bitBody slot at h
  split at h
  · rename_i hx
    cases h
    exact exchange_raise hx
  · cases h

/-- R106: a byte transaction raises the IoError of its first failing slot. -/
theorem byteTransaction_raise {sent : Nat → Byte} {s t : State} {err : BlockError}
    (h : byteTransaction sent s = .raise t err) : err = .io := by
  obtain ⟨j, hj, e, he, hlast⟩ := slots_first_failure s sent 8
  obtain ⟨pin, pout, hx⟩ := byteTransaction_spec sent e j s hj he hlast
  rw [h] at hx
  split at hx <;> cases hx
  rfl

/-- R104: a byte write raises IoError, or ProtocolError where the echo differs from the byte. -/
theorem writeByteBody_raise {b : Byte} {s t : State} {err : BlockError} (h : writeByteBody b s = .raise t err) :
    err = .io ∨ ∃ acc, err = .protocol acc := by
  unfold writeByteBody at h
  split at h
  · rename_i hx
    cases h
    exact .inl (byteTransaction_raise hx)
  · split at h <;> cases h
    exact .inr ⟨_, rfl⟩

/-- R105: a byte read compares no echo, so IoError is all it raises. -/
theorem readByteData_raise {s t : State} {err : BlockError} (h : readByteData s = .raise t err) : err = .io := by
  unfold readByteData readByteBody at h
  split at h
  · rename_i hb
    split at hb
    · rename_i hx
      cases hb
      cases h
      exact byteTransaction_raise hx
    · cases hb
  · cases h

theorem readBytesBody_raise {n : Byte} {s t : State} {err : BlockError} (h : readBytesBody n s = .raise t err) :
    err = .io := by
  obtain ⟨_, -, hx | ⟨_, -, hx⟩⟩ := readBytesBody_spec n s <;> cases h.symm.trans hx
  rfl

/-- R123: the reset raises IoError, or the verdict on the echo of its pulse. -/
theorem resetBody_raise {s t : State} {err : BlockError} (h : resetBody s = .raise t err) :
    err = .io ∨ ∃ p, (classifyPresence p).verdict = some err := by
  obtain ⟨pin, pout, hx⟩ := resetBody_spec s
  rw [h] at hx
  dsimp only at hx
  split at hx
  · cases hx
    exact .inl rfl
  · split at hx
    · cases hx
    · rename_i hv
      cases hx
      exact .inr ⟨_, hv⟩

theorem openBody_raise {path : Path} {timeout : Duration} {s t : State} {err : BlockError}
    (h : openBody path timeout s = .raise t err) : err = .io := by
  rw [openBody_spec] at h
  split at h <;> cases h
  rfl

/-! ### Who reports a status -/

/-- R161: a verdict on the presence is OW_RESET's to report. -/
theorem reports_verdict {c : PresenceResult} {err : BlockError} (h : c.verdict = some err) :
    Reports err.status .owReset = true := by
  cases c <;> cases h <;> rfl

/-- R125, R161: a command behind the gate may report NOT_CONNECTED and IO_ERROR, so only what else its body raises is
its own matter. -/
theorem reports_of_gated_raise {i : Instr} {body : State → Result (List Byte)} {s t : State} {err : BlockError}
    (hi : Gated i = true) (hbody : body s = .raise t err → err = .io ∨ Reports err.status i = true)
    (h : requireOpen body s = .raise t err) : Reports err.status i = true := by
  cases ho : s.isOpen with
  | false =>
    rw [requireOpen_closed ho] at h
    cases h
    exact hi
  | true =>
    rw [requireOpen_open ho] at h
    obtain rfl | hr := hbody h
    · exact Bool.or_eq_true_iff.2 (.inl hi)
    · exact hr

/-- R161, "raised by": a body raises only what its command may report. -/
theorem commandBody_raise_reports {i : Instr} {s t : State} {err : BlockError} (h : commandBody i s = .raise t err) :
    Reports err.status i = true := by
  cases i with
  | openTransport path timeout =>
    obtain rfl := openBody_raise h
    rfl
  | closeTransport => cases h
  | owReset =>
    exact reports_of_gated_raise rfl (fun hx => (resetBody_raise hx).imp_right fun ⟨_, hv⟩ => reports_verdict hv) h
  | owWriteBit v => exact reports_of_gated_raise rfl (fun hx => .inl (bitBody_raise hx)) h
  | owReadBit => exact reports_of_gated_raise rfl (fun hx => .inl (bitBody_raise hx)) h
  | owWriteByte b =>
    exact reports_of_gated_raise rfl (fun hx => (writeByteBody_raise hx).imp_right fun ⟨_, he⟩ => he ▸ rfl) h
  | owReadByte => exact reports_of_gated_raise rfl (fun hx => .inl (readByteData_raise hx)) h
  | owReadBytes n => exact reports_of_gated_raise rfl (fun hx => .inl (readBytesBody_raise hx)) h
  | crcInit => cases h
  | crcByte b => cases h
  | crcRead => cases h

/-- R33, R160: the status of a finished command is OK, or that of the error its body raised. -/
theorem finish_status {r : Result (List Byte)} {q : Response} (h : (finish r).response = some q) :
    q.status = Status.ok.code ∨ ∃ t err, r = .raise t err ∧ q.status = err.status.code := by
  cases r with
  | ret t d =>
    cases h
    exact .inl rfl
  | raise t err =>
    cases h
    exact .inr ⟨t, err, rfl, rfl⟩

/-- Settles O47: a code is one status's, OK is every command's, and an error is one that the command's body raised. -/
theorem statusIsReportedOnlyByItsCommands : Obligations.StatusIsReportedOnlyByItsCommands := by
  intro i s t r st h hr hst
  obtain ⟨-, rfl⟩ := exec_next h
  obtain hok | ⟨u, err, hraise, herr⟩ := finish_status hr
  · obtain rfl : st = .ok := code_injective (hst.symm.trans hok)
    rfl
  · obtain rfl : st = err.status := code_injective (hst.symm.trans herr)
    exact commandBody_raise_reports hraise

end Sys2Proof.Machine
end

section
/-!
The bound on a command's traffic (R189): a transaction as long as `n` slots can be, however it ends, and each command's
number of slots.
-/

namespace Sys2Proof.Machine

/-! ### Traffic within a number of slots -/

/-- R100: from `s` to `t` no more has been performed than `n` slots can perform: one receive and three events each. -/
def State.WithinSlots (s : State) (n : Nat) (t : State) : Prop :=
  rxCount t.trace ≤ rxCount s.trace + n ∧ t.trace.length ≤ s.trace.length + 3 * n

theorem withinSlots_refl (s : State) (n : Nat) : s.WithinSlots n s := ⟨Nat.le_add_right .., Nat.le_add_right ..⟩

theorem withinSlots_trans {s t u : State} {m n : Nat} (h : s.WithinSlots m t) (h' : t.WithinSlots n u) :
    s.WithinSlots (m + n) u := by
  obtain ⟨hrx, hlen⟩ := h
  obtain ⟨hrx', hlen'⟩ := h'
  exact ⟨by omega, by omega⟩

/-- Events that fit in `n` slots keep the trace they are appended to within `n` slots. -/
theorem withinSlots_of_append {s t : State} {tr : List Event} {n : Nat} (ht : t.trace = s.trace ++ tr)
    (hrx : rxCount tr ≤ n) (hlen : tr.length ≤ 3 * n) : s.WithinSlots n t := by
  have hsplit : rxCount (s.trace ++ tr) = rxCount s.trace + rxCount tr := List.countP_append
  rw [State.WithinSlots, ht, hsplit, List.length_append]
  exact ⟨Nat.add_le_add_left hrx _, Nat.add_le_add_left hlen _⟩

/-! ### One slot and the slots of a byte -/

/-- R100: a slot receives at most once, and a failed `Tx` only shortens it. -/
theorem slotTrace_bounds (s : State) (j : Nat) (sent : Byte) :
    rxCount (s.slotTrace j sent) ≤ 1 ∧ (s.slotTrace j sent).length ≤ 3 := by
  unfold State.slotTrace
  split <;> simp [rxCount]

theorem exchange_withinSlots (sent : Byte) (s : State) : s.WithinSlots 1 (exchange sent s).state := by
  obtain ⟨pin, pout, hx⟩ := exchange_spec sent s
  obtain ⟨hrx, hlen⟩ := slotTrace_bounds s 0 sent
  have h : s.WithinSlots 1 (s.advance (s.slotDraws 0 sent) (s.slotTrace 0 sent) pin pout) :=
    withinSlots_of_append (advance_trace ..) hrx hlen
  rw [hx]
  cases s.slotEcho 0 sent <;> exact h

theorem bitBody_withinSlots (sent : Byte) (s : State) : s.WithinSlots 1 (bitBody sent s).state := by
  have h := exchange_withinSlots sent s
  rw [bitBody, slot]
  cases hx : exchange sent s <;> rwa [hx] at h

/-- R106: a failing slot ends the slots, so there are never more than `n`. -/
theorem byteSlots_withinSlots (sent : Nat → Byte) (n : Nat) (s : State) :
    s.WithinSlots n (byteSlots sent n s).state := by
  induction n generalizing s with
  | zero => exact withinSlots_refl s 0
  | succ n ih =>
    have h := exchange_withinSlots (sent s.cnt) s
    rw [byteSlots, slot, Nat.add_comm]
    cases hx : exchange (sent s.cnt) s with
    | raise t err =>
      rw [hx] at h
      exact withinSlots_trans h (withinSlots_refl t n)
    | ret t e =>
      rw [hx] at h
      exact withinSlots_trans (t := t) h (ih (t.record (observed e)))

theorem byteTransaction_withinSlots (sent : Nat → Byte) (s : State) :
    s.WithinSlots 8 (byteTransaction sent s).state :=
  byteSlots_withinSlots sent Config.bitsPerByte s.startByte

/-! ### The bodies of commands -/

/-- R124: a byte-sequence read performs at most the eight slots of each of its bytes. -/
theorem readBytesLoop_withinSlots (n : Nat) (out : List Byte) (s : State) :
    s.WithinSlots (8 * n) (readBytesLoop n out s).state := by
  induction n generalizing out s with
  | zero => exact withinSlots_refl s 0
  | succ n ih =>
    have h := readByteBody_state s ▸ byteTransaction_withinSlots readSlots s
    rw [readBytesLoop, Nat.mul_succ, Nat.add_comm]
    cases hx : readByteBody s with
    | raise t err =>
      rw [hx] at h
      exact withinSlots_trans h (withinSlots_refl t (8 * n))
    | ret t b =>
      rw [hx] at h
      exact withinSlots_trans (t := t) h (ih _ t.countByte)

/-- R123, R126: one exchange and the two SetBauds around it are fewer events than two slots have. -/
theorem resetBody_withinSlots (s : State) : s.WithinSlots 2 (resetBody s).state := by
  obtain ⟨pin, pout, hx⟩ := finish_resetBody s
  dsimp only at hx
  obtain ⟨hrx, hlen⟩ := slotTrace_bounds (setBaud .b9600 s) 0 0xF0
  have htrace : (resetBody s).state.trace =
      s.trace ++ .setBaud .b9600 :: ((setBaud .b9600 s).slotTrace 0 0xF0 ++ [.setBaud .b115200]) := by
    rw [← finish_trace, hx]
    simp
  refine withinSlots_of_append htrace ?_ ?_
  · simp only [rxCount, List.countP_cons, List.countP_append, List.countP_nil] at hrx ⊢
    simpa using Nat.le_succ_of_le hrx
  · simp only [List.length_cons, List.length_append, List.length_nil]
    omega

theorem openBody_withinSlots (path : Path) (timeout : Duration) (s : State) :
    s.WithinSlots 1 (openBody path timeout s).state := by
  rw [openBody_spec]
  split
  · exact withinSlots_of_append (tr := [.topen path true, .setBaud .b115200]) rfl (Nat.zero_le 1) (by decide : 2 ≤ 3)
  · exact withinSlots_of_append (tr := [.topen path false]) rfl (Nat.zero_le 1) (by decide : 1 ≤ 3)

/-- R125: a closed transport performs nothing. -/
theorem requireOpen_withinSlots {body : State → Result (List Byte)} {s : State} {n : Nat}
    (h : s.WithinSlots n (body s).state) : s.WithinSlots n (requireOpen body s).state := by
  cases ho : s.isOpen with
  | true => rwa [requireOpen_open ho]
  | false => rw [requireOpen_closed ho]; exact withinSlots_refl s n

/-! ### Every command -/

/-- R189: a number of slots that the traffic of each command fits in. -/
def slotBound : Instr → Nat
  | .openTransport _ _ => 1
  | .closeTransport => 1
  | .owReset => 2
  | .owWriteBit _ => 1
  | .owReadBit => 1
  | .owWriteByte _ => 8
  | .owReadByte => 8
  | .owReadBytes n => 8 * byteCount n
  | .crcInit => 0
  | .crcByte _ => 0
  | .crcRead => 0

/-- R189: 255 bytes of eight slots are the most. -/
theorem slotBound_le (i : Instr) : slotBound i ≤ 2040 := by
  cases i with
  | owReadBytes n =>
    have hn : byteCount n ≤ 255 := Nat.le_of_lt_succ n.isLt
    exact Nat.mul_le_mul_left 8 hn
  | _ => simp [slotBound]

theorem commandBody_withinSlots (i : Instr) (s : State) : s.WithinSlots (slotBound i) (commandBody i s).state := by
  cases i with
  | openTransport path timeout => exact openBody_withinSlots path timeout s
  | closeTransport => exact withinSlots_of_append (tr := [.tclose]) rfl (Nat.zero_le 1) (by decide : 1 ≤ 3)
  | owReset => exact requireOpen_withinSlots (resetBody_withinSlots s)
  | owWriteBit v => exact requireOpen_withinSlots (bitBody_withinSlots _ s)
  | owReadBit => exact requireOpen_withinSlots (bitBody_withinSlots _ s)
  | owWriteByte b => exact requireOpen_withinSlots (writeByteBody_state b s ▸ byteTransaction_withinSlots _ s)
  | owReadByte => exact requireOpen_withinSlots (readByteData_state s ▸ byteTransaction_withinSlots _ s)
  | owReadBytes n => exact requireOpen_withinSlots (readBytesLoop_withinSlots (byteCount n) [] s.startBytes)
  | crcInit => exact withinSlots_refl s 0
  | crcByte b => exact withinSlots_refl s 0
  | crcRead => exact withinSlots_refl s 0

/-- Settles O39: a command's trace is its body's, from an empty one on, and no body exceeds its command's slots, of which
there are at most 2040. -/
theorem everyCommandPerformsBoundedTraffic : Obligations.EveryCommandPerformsBoundedTraffic := by
  intro i s t h
  obtain ⟨-, rfl⟩ := exec_next h
  obtain ⟨hrx, hlen⟩ := commandBody_withinSlots i s.beginCommand
  have hbound := slotBound_le i
  have hempty : rxCount ([] : List Event) = 0 := rfl
  rw [beginCommand_trace, hempty] at hrx
  rw [beginCommand_trace, List.length_nil] at hlen
  rw [finish_trace]
  exact ⟨by omega, by omega⟩

end Sys2Proof.Machine
end
